-- ==== Sys2Proof/Word.lean ====
section
/-! DEFINITION. The word types of the block: one input or response word (spec/30_encoding.md R80, R100) and one byte of memory (spec/20_memory.md R60). -/

namespace Sys2Proof

/-- One 64-bit input or response word; bit 0 is the least significant (R13, R80, R100). -/
abbrev Word := BitVec 64

/-- One byte of system memory or packet memory (R60). -/
abbrev Byte := BitVec 8

end Sys2Proof
end

