-- ==== Sys2Proof/Config.lean ====
section
/-! DEFINITION. What an implementation of the block fixes (spec/00_scope.md section 4), and the values the spec leaves open, as constants without a body. -/

namespace Sys2Proof

/-- `VARIANT` together with `DMA_EN` (R9, R10): the `FS` variant has no DMA, so the illegal pair `FS` with `DMA_EN = 1` cannot be written. The parameter stands in `State` and no step changes it (log 2). -/
inductive Variant where
  /-- the OTG-capable core; `dmaEn` is `DMA_EN` -/
  | OTG (dmaEn : Bool)
  /-- the dedicated full-speed core -/
  | FS
  deriving DecidableEq, Repr

/-- The two address spaces of R60: system memory and the packet memory of the `FS` variant. -/
inductive Space where
  | SYS
  | PMA
  deriving DecidableEq, Repr

/-- `ERR_LIMIT` (R8): a fixed constant of the hardware. -/
def Config.errLimit : Nat := 2

/-- `NYET_LIMIT` (R8): a fixed constant of the hardware. -/
def Config.nyetLimit : Nat := 2

/-- The greatest legal `NCH` (R7). -/
def Config.maxChannels : Nat := 16

/-- Number of bytes of a space (R60). -/
def Config.spaceSize : Space → Nat
  | .SYS => 2 ^ 32
  | .PMA => 2 ^ 16

/-- What a byte of memory that no agent has written holds: any value (R61, 93 U11). A free value: it has no body, so no proof can see it (log 5). -/
opaque Config.powerOn : Space → Nat → Byte

/-- `npk(n, 0)`: R157 excludes `m = 0` (R111) and states no result there. A free value (log 12). -/
opaque Config.npkZero : Nat → Nat

/-- `PHYS_MAP(ch, dir)` (R11; the Bool is 1 for IN): the open map from a logical channel and a direction to a physical channel, which the `FS` variant uses to label outputs. No rule depends on its value (log 13). -/
opaque Config.physMap : Nat → Bool → Nat

end Sys2Proof
end

