-- ==== Sys2Proof/Syntax.lean ====
section
/-! DEFINITION. The input words of the block as syntax: one constructor per row of spec/opcode_table.json, with the operands of the formats R81 to R92, and the pseudo-instructions of R98. -/

namespace Sys2Proof

/-- Transfer direction (R22, R84). -/
inductive Dir where
  | OUT
  | IN
  deriving DecidableEq, Repr

/-- Endpoint type (R23, R84). -/
inductive EpType where
  | CTRL
  | ISOC
  | BULK
  | INTR
  deriving DecidableEq, Repr

/-- A channel operand: the 4-bit CH field (R80). Whether it is below NCH is the meaning's check. -/
abbrev ChanIx := BitVec 4

/-- The 22 operations of R93. Fields are unsigned bit strings (R95). The SPEED field of CONFIG and the PEV and SPEED fields of EV_PORT are kept as their codes, because a reserved code has a meaning of its own (R94, R111). -/
inductive Instr where
  /-- CONFIG ch, dir, eptype, speed, devaddr, epnum, mps (R81, R110) -/
  | config (c : ChanIx) (dir : Dir) (et : EpType) (sp : BitVec 2) (da : BitVec 7) (en : BitVec 4) (mps : BitVec 11)
  /-- CONFIG_DBUF ch, en, buf0, buf1 (R82, R115) -/
  | configDbuf (c : ChanIx) (en : Bool) (b0 : BitVec 16) (b1 : BitVec 16)
  /-- SUBMIT ch, dir, eptype, setup, len, buf (R83, R121) -/
  | submit (c : ChanIx) (dir : Dir) (et : EpType) (su : Bool) (len : BitVec 19) (buf : BitVec 32)
  /-- HALT ch (R86, R131) -/
  | halt (c : ChanIx)
  /-- SET_HUB ch, hubaddr, hubport (R87, R140) -/
  | setHub (c : ChanIx) (ha : BitVec 7) (hp : BitVec 7)
  /-- CLEAR_HUB ch (R86, R141) -/
  | clearHub (c : ChanIx)
  /-- GET_URB ch (R86, R143) -/
  | getUrb (c : ChanIx)
  /-- GET_COUNT ch (R86, R144) -/
  | getCount (c : ChanIx)
  /-- EV_XFRC ch, resid (R88, R150, R160) -/
  | evXfrc (c : ChanIx) (resid : BitVec 19)
  /-- EV_ACK ch (R88, R150, R165) -/
  | evAck (c : ChanIx)
  /-- EV_NAK ch (R88, R150, R167) -/
  | evNak (c : ChanIx)
  /-- EV_STALL ch (R88, R150, R170) -/
  | evStall (c : ChanIx)
  /-- EV_XACTERR ch (R88, R150, R172) -/
  | evXacterr (c : ChanIx)
  /-- EV_BBLERR ch (R88, R150, R173) -/
  | evBblerr (c : ChanIx)
  /-- EV_DTERR ch (R88, R150, R174) -/
  | evDterr (c : ChanIx)
  /-- EV_FRMOR ch (R88, R150, R175) -/
  | evFrmor (c : ChanIx)
  /-- EV_NYET ch (R88, R150, R177) -/
  | evNyet (c : ChanIx)
  /-- EV_CHH ch (R88, R150, R180) -/
  | evChh (c : ChanIx)
  /-- EV_PKT ch, nbytes, more (R89, R196) -/
  | evPkt (c : ChanIx) (n : BitVec 19) (more : Bool)
  /-- EV_DBUF_ACK ch, bufsel, nbytes (R90, R222) -/
  | evDbufAck (c : ChanIx) (bufsel : Bool) (n : BitVec 19)
  /-- EV_PORT pev, speed (R91, R250) -/
  | evPort (pev : BitVec 3) (sp : BitVec 2)
  /-- DISPATCH (R92, R240) -/
  | dispatch
  deriving DecidableEq, Repr

/-- Pseudo-instruction SETUP_TOKEN ch, buf (R98): the 8-byte SETUP packet. -/
def Instr.setupToken (c : ChanIx) (buf : BitVec 32) : Instr := .submit c .OUT .CTRL true 8 buf

/-- Pseudo-instruction STATUS_IN ch (R98). -/
def Instr.statusIn (c : ChanIx) : Instr := .submit c .IN .CTRL false 0 0

/-- Pseudo-instruction STATUS_OUT ch (R98). -/
def Instr.statusOut (c : ChanIx) : Instr := .submit c .OUT .CTRL false 0 0

/-- Pseudo-instruction EVENT ch, e (R98): the event word followed by DISPATCH. -/
def Instr.eventThenDispatch (e : Instr) : List Instr := [e, .dispatch]

end Sys2Proof
end

