-- ==== Sys2Proof/WellFormed.lean ====
section
/-! DEFINITION. Which terms of `Instr` the encoding admits. The operand types already bound every field's width (R81 to R92); what is left are the reserved codes of an event word (R94). -/

namespace Sys2Proof

/-- PEV 0 to 4 name a port event; 5 to 7 are reserved (R84, R94). -/
def pevLegal (pev : BitVec 3) : Bool := decide (pev.toNat ≤ 4)

/-- SPEED 0 to 2 name a speed; 3 is reserved (R84, R94). -/
def speedLegal (sp : BitVec 2) : Bool := decide (sp.toNat ≤ 2)

/-- The well-formed instructions: every term but an EV_PORT with a reserved PEV or SPEED, which spells no operation (R94). SPEED 3 in CONFIG is well formed: the word is legal and answers ERR_PARAM (R94, R111). -/
def Instr.wellFormed : Instr → Bool
  | .config _ _ _ _ _ _ _ => true
  | .configDbuf _ _ _ _ => true
  | .submit _ _ _ _ _ _ => true
  | .halt _ => true
  | .setHub _ _ _ => true
  | .clearHub _ => true
  | .getUrb _ => true
  | .getCount _ => true
  | .evXfrc _ _ => true
  | .evAck _ => true
  | .evNak _ => true
  | .evStall _ => true
  | .evXacterr _ => true
  | .evBblerr _ => true
  | .evDterr _ => true
  | .evFrmor _ => true
  | .evNyet _ => true
  | .evChh _ => true
  | .evPkt _ _ _ => true
  | .evDbufAck _ _ _ => true
  | .evPort pev sp => pevLegal pev && speedLegal sp
  | .dispatch => true

end Sys2Proof
end

