-- ==== Sys2Proof/Decode.lean ====
section
/-! DEFINITION. The decoder of input words (spec/30_encoding.md R80 to R96), total on every 64-bit word and rejecting by name, and the encoder written from the same formats. -/

namespace Sys2Proof

/-- Why a word spells no operation (R94); all three raise ILLEGAL_OP (R96, R264), tested in this order. -/
inductive DecodeError where
  /-- OP is 0x00, 0x09 to 0x0F, 0x1D or 0x1E -/
  | reservedOp
  /-- a reserved bit of the operation's format is not 0 -/
  | reservedBits
  /-- EV_PORT with PEV 5 to 7 or SPEED 3 -/
  | reservedEnum
  deriving DecidableEq, Repr

/-- `OP = w[63:59]` (R80). -/
def opOf (w : Word) : Nat := (w.extractLsb' 59 5).toNat

/-- `CH = w[58:55]` (R80). -/
def chOf (w : Word) : ChanIx := w.extractLsb' 55 4

/-- `reserved_mask(op)` of R96: the reserved bits of the operation's format (R81 to R92), or none for a reserved OP (R93). -/
def reservedMask : Nat → Option Word
  | 0x01 => some 0x000000000FFFFFFF#64
  | 0x02 => some 0x003F00000000FFFF#64
  | 0x03 => some 0x0000000000000000#64
  | 0x04 => some 0x007FFFFFFFFFFFFF#64
  | 0x05 => some 0x000001FFFFFFFFFF#64
  | 0x06 => some 0x007FFFFFFFFFFFFF#64
  | 0x07 => some 0x007FFFFFFFFFFFFF#64
  | 0x08 => some 0x007FFFFFFFFFFFFF#64
  | 0x10 => some 0x00780000FFFFFFFF#64
  | 0x11 => some 0x007FFFFFFFFFFFFF#64
  | 0x12 => some 0x007FFFFFFFFFFFFF#64
  | 0x13 => some 0x007FFFFFFFFFFFFF#64
  | 0x14 => some 0x007FFFFFFFFFFFFF#64
  | 0x15 => some 0x007FFFFFFFFFFFFF#64
  | 0x16 => some 0x007FFFFFFFFFFFFF#64
  | 0x17 => some 0x007FFFFFFFFFFFFF#64
  | 0x18 => some 0x007FFFFFFFFFFFFF#64
  | 0x19 => some 0x007FFFFFFFFFFFFF#64
  | 0x1A => some 0x007800007FFFFFFF#64
  | 0x1B => some 0x00380000FFFFFFFF#64
  | 0x1C => some 0x0783FFFFFFFFFFFF#64
  | 0x1F => some 0x07FFFFFFFFFFFFFF#64
  | _ => none

/-- DIR code (R84): 0 OUT, 1 IN. -/
def dirOfBit (b : Bool) : Dir := if b then .IN else .OUT

/-- DIR code (R84), written. -/
def dirBit : Dir → BitVec 1
  | .OUT => 0
  | .IN => 1

/-- EPTYPE code (R84): 0 CTRL, 1 ISOC, 2 BULK, 3 INTR. -/
def epTypeOfCode (c : BitVec 2) : EpType :=
  if c = 0 then .CTRL else if c = 1 then .ISOC else if c = 2 then .BULK else .INTR

/-- EPTYPE code (R84), written. -/
def epTypeCode : EpType → BitVec 2
  | .CTRL => 0
  | .ISOC => 1
  | .BULK => 2
  | .INTR => 3

/-- The fields of a word whose OP and reserved bits have been checked (R81 to R92, R95). -/
def decodeFields (w : Word) : Except DecodeError Instr :=
  match opOf w with
  | 0x01 => .ok (.config (chOf w) (dirOfBit (w.getLsbD 54)) (epTypeOfCode (w.extractLsb' 52 2))
      (w.extractLsb' 50 2) (w.extractLsb' 43 7) (w.extractLsb' 39 4) (w.extractLsb' 28 11))
  | 0x02 => .ok (.configDbuf (chOf w) (w.getLsbD 54) (w.extractLsb' 32 16) (w.extractLsb' 16 16))
  | 0x03 => .ok (.submit (chOf w) (dirOfBit (w.getLsbD 54)) (epTypeOfCode (w.extractLsb' 52 2))
      (w.getLsbD 51) (w.extractLsb' 32 19) (w.extractLsb' 0 32))
  | 0x04 => .ok (.halt (chOf w))
  | 0x05 => .ok (.setHub (chOf w) (w.extractLsb' 48 7) (w.extractLsb' 41 7))
  | 0x06 => .ok (.clearHub (chOf w))
  | 0x07 => .ok (.getUrb (chOf w))
  | 0x08 => .ok (.getCount (chOf w))
  | 0x10 => .ok (.evXfrc (chOf w) (w.extractLsb' 32 19))
  | 0x11 => .ok (.evAck (chOf w))
  | 0x12 => .ok (.evNak (chOf w))
  | 0x13 => .ok (.evStall (chOf w))
  | 0x14 => .ok (.evXacterr (chOf w))
  | 0x15 => .ok (.evBblerr (chOf w))
  | 0x16 => .ok (.evDterr (chOf w))
  | 0x17 => .ok (.evFrmor (chOf w))
  | 0x18 => .ok (.evNyet (chOf w))
  | 0x19 => .ok (.evChh (chOf w))
  | 0x1A => .ok (.evPkt (chOf w) (w.extractLsb' 32 19) (w.getLsbD 31))
  | 0x1B => .ok (.evDbufAck (chOf w) (w.getLsbD 54) (w.extractLsb' 32 19))
  | 0x1C =>
    if pevLegal (w.extractLsb' 52 3) && speedLegal (w.extractLsb' 50 2) then
      .ok (.evPort (w.extractLsb' 52 3) (w.extractLsb' 50 2))
    else .error .reservedEnum
  | 0x1F => .ok .dispatch
  | _ => .error .reservedOp

/-- The decoder of R96: reserved OP, then reserved bits, then reserved enumeration values, then the fields. -/
def decode (w : Word) : Except DecodeError Instr :=
  match reservedMask (opOf w) with
  | none => .error .reservedOp
  | some m => if w &&& m = 0 then decodeFields w else .error .reservedBits

/-- The word of an instruction: the fields of R81 to R92 from bit 63 down, reserved bits 0 (R80). -/
def encode : Instr → Word
  | .config c dir et sp da en mps =>
    0x01#5 ++ c ++ dirBit dir ++ epTypeCode et ++ sp ++ da ++ en ++ mps ++ 0#28
  | .configDbuf c en b0 b1 => 0x02#5 ++ c ++ BitVec.ofBool en ++ 0#6 ++ b0 ++ b1 ++ 0#16
  | .submit c dir et su len buf =>
    0x03#5 ++ c ++ dirBit dir ++ epTypeCode et ++ BitVec.ofBool su ++ len ++ buf
  | .halt c => 0x04#5 ++ c ++ 0#55
  | .setHub c ha hp => 0x05#5 ++ c ++ ha ++ hp ++ 0#41
  | .clearHub c => 0x06#5 ++ c ++ 0#55
  | .getUrb c => 0x07#5 ++ c ++ 0#55
  | .getCount c => 0x08#5 ++ c ++ 0#55
  | .evXfrc c resid => 0x10#5 ++ c ++ 0#4 ++ resid ++ 0#32
  | .evAck c => 0x11#5 ++ c ++ 0#55
  | .evNak c => 0x12#5 ++ c ++ 0#55
  | .evStall c => 0x13#5 ++ c ++ 0#55
  | .evXacterr c => 0x14#5 ++ c ++ 0#55
  | .evBblerr c => 0x15#5 ++ c ++ 0#55
  | .evDterr c => 0x16#5 ++ c ++ 0#55
  | .evFrmor c => 0x17#5 ++ c ++ 0#55
  | .evNyet c => 0x18#5 ++ c ++ 0#55
  | .evChh c => 0x19#5 ++ c ++ 0#55
  | .evPkt c n more => 0x1A#5 ++ c ++ 0#4 ++ n ++ BitVec.ofBool more ++ 0#31
  | .evDbufAck c bufsel n => 0x1B#5 ++ c ++ BitVec.ofBool bufsel ++ 0#3 ++ n ++ 0#32
  | .evPort pev sp => 0x1C#5 ++ 0#4 ++ pev ++ sp ++ 0#50
  | .dispatch => 0x1F#5 ++ 0#59

/-- The instruction the decoder reads from a table word of `nbits` bits. A word of this block is one 64-bit value with no byte order (R64, R80), so nothing is laid out; bits from `nbits` up are 0. -/
def decodeTableWord (nbits w : Nat) : Option Instr :=
  (decode (BitVec.ofNat 64 (w % 2 ^ nbits))).toOption

end Sys2Proof
end

