-- ==== Sys2Proof/Machine/State.lean ====
section
/-! DEFINITION. Everything the spec gives the block as plain data (spec/10_state.md), the memories it reaches (spec/20_memory.md), the model's own fields for parameters and inputs, the reasons a step can stop, and the reset state (R49, R290). -/

namespace Sys2Proof.Machine

/-- Bus speed (R24, R41, R84). -/
inductive Speed where
  | HS
  | FS
  | LS
  deriving DecidableEq, Repr

/-- Protocol state of a channel (R30, R84). -/
inductive ProtoState where
  | IDLE
  | XFRC
  | NAK
  | STALL
  | XACTERR
  | BBLERR
  | DATATGLERR
  | ACK
  | NYET
  | HALTED
  deriving DecidableEq, Repr

/-- URB state of a channel (R31, R84). -/
inductive UrbState where
  | IDLE
  | DONE
  | NOTREADY
  | ERROR
  | STALL
  deriving DecidableEq, Repr

/-- Data PID (R25, R84). -/
inductive Pid where
  | DATA0
  | DATA1
  | SETUP
  deriving DecidableEq, Repr

/-- Split phase of an ARM (R34, R84). -/
inductive Phase where
  | NONE
  | SS
  | CS
  deriving DecidableEq, Repr

/-- Port connection (R40, R84). No rule writes RESET, SUSPENDED or RESUMED (R256). -/
inductive PortConn where
  | DISCONNECTED
  | CONNECTED
  | RESET
  | SUSPENDED
  | RESUMED
  | RUNNING
  deriving DecidableEq, Repr

/-- Port event PEV (R84, R91). -/
inductive PortEvent where
  | CONNECT
  | DISCONNECT
  | ENABLE
  | DISABLE
  | OVERCURRENT
  deriving DecidableEq, Repr

/-- The port callbacks of R102. -/
inductive PortCallback where
  | CONNECT
  | DISCONNECT
  | ENABLED
  | DISABLED
  deriving DecidableEq, Repr

/-- The ten channel events, which are also the ten flags of `hcint` (R38, R85, R270). -/
inductive ChanEvent where
  | XFRC
  | ACK
  | NAK
  | STALL
  | XACTERR
  | BBLERR
  | DTERR
  | FRMOR
  | NYET
  | CHH
  deriving DecidableEq, Repr

/-- Response status (R101). -/
inductive Status where
  | OK
  | ERR_RANGE
  | ERR_BUSY
  | ERR_HW
  | ERR_NOTCFG
  | ERR_PARAM
  deriving DecidableEq, Repr

/-- Code of the sticky fault register (R263). -/
inductive FaultCode where
  | NONE
  | ILLEGAL_OP
  | CH_RANGE
  | UNEXPECTED_EVENT
  deriving DecidableEq, Repr

/-- The sticky fault register `hcps.fault` (R44). -/
structure FaultReg where
  valid : Bool
  code : FaultCode
  word : Word
  deriving DecidableEq, Repr

/-- One channel record (R21 to R39, R50). -/
structure Channel where
  configured : Bool
  dir : Dir
  epType : EpType
  devAddr : BitVec 7
  epNum : BitVec 4
  mps : BitVec 11
  speed : Speed
  setup : Bool
  toggleIn : Bool
  toggleOut : Bool
  tgl0 : Bool
  armed : Bool
  haltPending : Bool
  state : ProtoState
  urb : UrbState
  xferBuf : BitVec 32
  xferLen : BitVec 19
  xferCount : BitVec 19
  hubAddr : BitVec 7
  hubPort : BitVec 7
  doSplit : Bool
  ssplit : Bool
  csplit : Bool
  resched : Bool
  errCnt : BitVec 2
  nyetCnt : BitVec 2
  oddfrm : Bool
  dbufEn : Bool
  bufAddr0 : BitVec 16
  bufAddr1 : BitVec 16
  swBuf : Bool
  loaded : BitVec 19
  fillBusy : Bool
  hcint : BitVec 10
  imsk : BitVec 10
  resid : BitVec 19
  deriving DecidableEq, Repr

/-- The host-port record (R40 to R42). -/
structure Port where
  conn : PortConn
  speed : Speed
  ovrcur : Bool
  deriving DecidableEq, Repr

/-- One record of the output log (R102). A slot is a Bool: 0 or 1. `len` and `addr` of ARM are the exact naturals `remaining(i)` and `xfer_buf + xfer_count` (log 10). -/
inductive OutRec where
  | ARM (ch : Nat) (pid : Pid) (phase : Phase) (oddfrm : Bool) (len : Nat) (addr : Nat)
  | HALT_REQ (ch : Nat)
  | SET_CSPLIT (ch : Nat)
  | ODDFRM (ch : Nat) (v : Bool)
  | URB (ch : Nat) (u : UrbState)
  | PORTCB (e : PortCallback)
  | FLUSH_FIFOS
  | LOAD (ch : Nat) (slot : Bool) (n : Nat)
  | RELEASE (ch : Nat) (slot : Bool)
  | PATH_DISABLE (ch : Nat)
  deriving DecidableEq, Repr

/-- A channel record under change, with the output records emitted so far by the handler that changes it: handlers touch one channel and the log only (R73). -/
structure ChanStep where
  ch : Channel
  out : List OutRec
  deriving DecidableEq, Repr

/-- A memory: the bytes some agent has written, as (address, byte) cells in strictly rising address order. An unlisted address holds no known value; what MemRead answers there is a free value (`Config.powerOn`, log 5). -/
abbrev Memory := List Host.Cell

/-- The draws of one word (R16): whether the transceiver accepts the start or halt primitive, the frame number, and the received bytes in bus order, which are followed by zero bytes where the list is shorter than the packet (log 3). -/
structure Draws where
  hwOk : Bool
  frame : BitVec 16
  rxData : List Byte
  deriving DecidableEq, Repr

/-- What the environment does next (R15, R17). A `word` is an input word with the draws its step uses; the others are the actions of the agents outside the sequencer between its steps (log 7). -/
inductive Stimulus where
  /-- the upper stack, the transceiver or the platform delivers an input word (R80) -/
  | word (w : Word) (d : Draws)
  /-- the dual-role core drives the mode input (R43, R280) -/
  | hostMode (b : Bool)
  /-- another agent writes bytes to a memory the block shares (R63, R71, R302, R303) -/
  | memWrite (sp : Space) (a : Nat) (bs : List Byte)
  /-- reset (R290) -/
  | reset
  deriving DecidableEq, Repr

/-- Why the machine stops at the host's level. The block's own faults are state (`FaultReg`), not this. -/
inductive Fault where
  /-- A memory access reaches outside its space, or reaches packet memory on the OTG variant, which has none (R60, R61). Raised by `memRead` and `memWrite`. The spec gives such an access no effect and says the rules never make one, so stopping is safe (log 6). -/
  | noSuchAddress (sp : Space) (a : Nat)
  deriving DecidableEq, Repr

/-- Why an instruction has no meaning. No meaning of this model refuses. -/
inductive Refusal where
  /-- Raised by an arm of `exec` whose instruction has no meaning yet; safe. No arm of this model does. -/
  | notModelled (mnemonic : String)
  deriving DecidableEq, Repr

/-- The machine (R20): channels, port, global registers, the memories, and the model's own fields. `variant` is the parameter of R9 and R10 and the length of `ch` is NCH (R7); no step changes either (log 2). `resp` is the response of the last step, if it returned one (R100, log 8). `draws` are the draws of the word being processed (R16, log 3) and `inputs` what the environment does next (log 1). -/
structure State where
  variant : Variant
  ch : List Channel
  port : Port
  hostMode : Bool
  fault : FaultReg
  out : List OutRec
  sys : Memory
  pma : Memory
  resp : Option Word
  draws : Draws
  inputs : List Stimulus
  deriving DecidableEq, Repr

/-- A channel after reset (R49). -/
def Channel.reset : Channel where
  configured := false
  dir := .OUT
  epType := .CTRL
  devAddr := 0
  epNum := 0
  mps := 0
  speed := .HS
  setup := false
  toggleIn := false
  toggleOut := false
  tgl0 := false
  armed := false
  haltPending := false
  state := .HALTED
  urb := .IDLE
  xferBuf := 0
  xferLen := 0
  xferCount := 0
  hubAddr := 0
  hubPort := 0
  doSplit := false
  ssplit := false
  csplit := false
  resched := false
  errCnt := 0
  nyetCnt := 0
  oddfrm := false
  dbufEn := false
  bufAddr0 := 0
  bufAddr1 := 0
  swBuf := false
  loaded := 0
  fillBusy := false
  hcint := 0
  imsk := 0
  resid := 0

/-- The port after reset (R49). -/
def Port.reset : Port := { conn := .DISCONNECTED, speed := .HS, ovrcur := false }

/-- The fault register after reset (R49). -/
def FaultReg.reset : FaultReg := { valid := false, code := .NONE, word := 0 }

/-- The state after reset of a block with `n` channels and variant `v`, with the mode input at `m` (R49, R290). Nothing is in memory, in the log or waiting at the input. -/
def State.resetOf (v : Variant) (n : Nat) (m : Bool) : State where
  variant := v
  ch := List.replicate n Channel.reset
  port := Port.reset
  hostMode := m
  fault := FaultReg.reset
  out := []
  sys := []
  pma := []
  resp := none
  draws := { hwOk := true, frame := 0, rxData := [] }
  inputs := []

/-- The machine right after reset (R49, R290). The parameters (NCH = 4, OTG, DMA_EN = 0) and the mode input (1) are the model's choice, the ones the spec's test vectors use most (log 2, log 4). -/
def State.reset : State := State.resetOf (.OTG false) 4 true

end Sys2Proof.Machine
end

