-- ==== Sys2Proof/Machine/Operands.lean ====
section
/-! DEFINITION. Operand forms: the numeric codes of the enumerations (R84, R101, R263), the values a rule derives from a channel record (R25, R32, R34, R157), and the legality checks of the commands (R111, R116, R122). -/

namespace Sys2Proof.Machine

/-- The speed a SPEED code names; 3 is reserved (R84). -/
def speedOfCode (c : BitVec 2) : Option Speed :=
  if c = 0 then some .HS else if c = 1 then some .FS else if c = 2 then some .LS else none

/-- SPEED code (R84). -/
def speedCode : Speed → BitVec 2
  | .HS => 0
  | .FS => 1
  | .LS => 2

/-- The port event a PEV code names; 5 to 7 are reserved (R84). -/
def portEventOfCode (c : BitVec 3) : Option PortEvent :=
  if c = 0 then some .CONNECT
  else if c = 1 then some .DISCONNECT
  else if c = 2 then some .ENABLE
  else if c = 3 then some .DISABLE
  else if c = 4 then some .OVERCURRENT
  else none

/-- PEV code (R84). -/
def portEventCode : PortEvent → BitVec 3
  | .CONNECT => 0
  | .DISCONNECT => 1
  | .ENABLE => 2
  | .DISABLE => 3
  | .OVERCURRENT => 4

/-- PID code (R84); 1 is reserved and never produced. -/
def pidCode : Pid → BitVec 2
  | .DATA0 => 0
  | .DATA1 => 2
  | .SETUP => 3

/-- Protocol-state code (R84). -/
def protoStateCode : ProtoState → BitVec 4
  | .IDLE => 0
  | .XFRC => 1
  | .NAK => 2
  | .STALL => 3
  | .XACTERR => 4
  | .BBLERR => 5
  | .DATATGLERR => 6
  | .ACK => 7
  | .NYET => 8
  | .HALTED => 9

/-- URB-state code (R84). -/
def urbCode : UrbState → BitVec 3
  | .IDLE => 0
  | .DONE => 1
  | .NOTREADY => 2
  | .ERROR => 3
  | .STALL => 4

/-- Split-phase code (R84). -/
def phaseCode : Phase → BitVec 2
  | .NONE => 0
  | .SS => 1
  | .CS => 2

/-- Port-connection code (R84). -/
def portConnCode : PortConn → BitVec 3
  | .DISCONNECTED => 0
  | .CONNECTED => 1
  | .RESET => 2
  | .SUSPENDED => 3
  | .RESUMED => 4
  | .RUNNING => 5

/-- STATUS code (R101). -/
def statusCode : Status → BitVec 4
  | .OK => 0
  | .ERR_RANGE => 1
  | .ERR_BUSY => 2
  | .ERR_HW => 3
  | .ERR_NOTCFG => 4
  | .ERR_PARAM => 5

/-- Fault code (R263). -/
def faultCode : FaultCode → BitVec 4
  | .NONE => 0
  | .ILLEGAL_OP => 1
  | .CH_RANGE => 2
  | .UNEXPECTED_EVENT => 3

/-- The response word (R100): STATUS in bits 63:60, DATA in bits 59:0. -/
def respWord (st : Status) (data : BitVec 60) : Word := statusCode st ++ data

/-- `VARIANT = FS` (R10). -/
def isFs : Variant → Bool
  | .FS => true
  | .OTG _ => false

/-- `DMA_EN` (R9): 0 on the FS variant. -/
def dmaOn : Variant → Bool
  | .FS => false
  | .OTG d => d

/-- Control and bulk endpoints: the ones the sequencer re-arms itself (R182, R183, R185, R187). -/
def isCtrlBulk : EpType → Bool
  | .CTRL => true
  | .BULK => true
  | .ISOC => false
  | .INTR => false

/-- Periodic endpoints: interrupt or isochronous (R18). -/
def isPeriodic : EpType → Bool
  | .INTR => true
  | .ISOC => true
  | .CTRL => false
  | .BULK => false

/-- Endpoints that may be double-buffered: bulk or isochronous (R116, R122). -/
def isBulkIsoc : EpType → Bool
  | .BULK => true
  | .ISOC => true
  | .CTRL => false
  | .INTR => false

/-- `tgl(i)` (R25): the toggle of the transfer's direction. -/
def tgl (c : Channel) : Bool :=
  match c.dir with
  | .IN => c.toggleIn
  | .OUT => c.toggleOut

/-- `tgl(i) <- v` (R160, R222). -/
def setTgl (v : Bool) (c : Channel) : Channel :=
  match c.dir with
  | .IN => { c with toggleIn := v }
  | .OUT => { c with toggleOut := v }

/-- `pid(i)` (R25). -/
def pid (c : Channel) : Pid :=
  if c.setup then .SETUP else if tgl c then .DATA1 else .DATA0

/-- `phase(i)` (R34). -/
def phase (c : Channel) : Phase :=
  if c.csplit then .CS else if c.ssplit then .SS else .NONE

/-- `remaining(i)` (R32); never negative by R48 (log 20). -/
def remaining (c : Channel) : Nat := c.xferLen.toNat - c.xferCount.toNat

/-- `xfer_buf + xfer_count` (R102, R155, R196): the next byte of the transfer, as an exact natural (log 10). -/
def nextAddr (c : Channel) : Nat := c.xferBuf.toNat + c.xferCount.toNat

/-- `buf_addr[b]` (R37). -/
def bufAddr (c : Channel) (b : Bool) : Nat :=
  if b then c.bufAddr1.toNat else c.bufAddr0.toNat

/-- `npk(n, m)` (R157): one packet for a zero-length transfer, else the ceiling of n / m. The spec states no result for m = 0, which R111 excludes: a free value (log 12). -/
def npk (n m : Nat) : Nat :=
  if n = 0 then 1 else if m = 0 then Config.npkZero n else (n + (m - 1)) / m

/-- The label `PHYS_MAP(ch, dir)` of a channel on the FS variant (R11); the OTG variant has none. -/
def physLabel (v : Variant) (i : Nat) (d : Dir) : Option Nat :=
  if isFs v then some (Config.physMap i (d == .IN)) else none

/-- `cfg_ok(sp, mps)` (R111), answering the speed to store where it holds. -/
def cfgSpeed (v : Variant) (sp : BitVec 2) (mps : BitVec 11) : Option Speed :=
  match speedOfCode sp with
  | none => none
  | some spd => if mps = 0 ∨ (isFs v = true ∧ spd = .HS) then none else some spd

/-- The ranges `[a, a + m)` and `[b, b + m)` do not overlap (R116). -/
def slotsApart (a b m : Nat) : Bool := decide (a + m ≤ b ∨ b + m ≤ a)

/-- `dbuf_ok(c, b0, b1)` (R116), on the channel's record. -/
def dbufOk (v : Variant) (c : Channel) (b0 b1 : BitVec 16) : Bool :=
  isFs v && isBulkIsoc c.epType
    && decide (b0.toNat % 2 = 0) && decide (b1.toNat % 2 = 0)
    && decide (b0.toNat + c.mps.toNat ≤ 2 ^ 16) && decide (b1.toNat + c.mps.toNat ≤ 2 ^ 16)
    && slotsApart b0.toNat b1.toNat c.mps.toNat

/-- `sub_ok(c, dir, et, su, len, buf)` (R122), on the channel's record. -/
def subOk (v : Variant) (c : Channel) (dir : Dir) (et : EpType) (su : Bool)
    (len : BitVec 19) (buf : BitVec 32) : Bool :=
  (!su || (decide (et = .CTRL) && decide (dir = .OUT)))
    && (!c.dbufEn || isBulkIsoc et)
    && (!dmaOn v || decide (buf.toNat % 4 = 0))
    && decide (buf.toNat + len.toNat ≤ 2 ^ 32)

end Sys2Proof.Machine
end

