-- ==== Sys2Proof/Machine/Flags.lean ====
section
/-! DEFINITION. The pending flags, their masks and their priority (R38, R39, R85, R241, R270), the saturating retry counters (R35), the bulk flag effects, and the interrupt line (R46). -/

namespace Sys2Proof.Machine

/-- Bit position of an event in `hcint` and `imsk` (R38, R85). -/
def eventBit : ChanEvent → Nat
  | .XFRC => 0
  | .ACK => 1
  | .NAK => 2
  | .STALL => 3
  | .XACTERR => 4
  | .BBLERR => 5
  | .DTERR => 6
  | .FRMOR => 7
  | .NYET => 8
  | .CHH => 9

/-- The flag of an event, as a mask of one bit. -/
def eventMask (k : ChanEvent) : BitVec 10 := BitVec.twoPow 10 (eventBit k)

/-- Whether flag k is 1. -/
def flagSet (v : BitVec 10) (k : ChanEvent) : Bool := v.getLsbD (eventBit k)

/-- Flag k written to 1. -/
def setFlag (v : BitVec 10) (k : ChanEvent) : BitVec 10 := v ||| eventMask k

/-- Flag k written to 0. -/
def clearFlag (v : BitVec 10) (k : ChanEvent) : BitVec 10 := v &&& ~~~(eventMask k)

/-- The flags of one channel, highest priority first (R241, R271). -/
def flagPriority : List ChanEvent :=
  [.STALL, .BBLERR, .XACTERR, .DTERR, .FRMOR, .XFRC, .ACK, .NYET, .NAK, .CHH]

/-- The unmasked pending flags of a channel (R38, R39). -/
def unmasked (c : Channel) : BitVec 10 := c.hcint &&& c.imsk

/-- The flag a DISPATCH handles on a channel: the first unmasked pending one in the order of R241. -/
def firstFlag (c : Channel) : Option ChanEvent :=
  flagPriority.find? (flagSet (unmasked c))

/-- `hcint[k] <- 1` (R150). -/
def latchFlag (k : ChanEvent) (c : Channel) : Channel := { c with hcint := setFlag c.hcint k }

/-- `hcint[k] <- 0` (R240). -/
def dropFlag (k : ChanEvent) (c : Channel) : Channel := { c with hcint := clearFlag c.hcint k }

/-- `imsk[ACK] <- 1; imsk[NYET] <- 1` (R182). -/
def openSplitMasks (c : Channel) : Channel := { c with imsk := setFlag (setFlag c.imsk .ACK) .NYET }

/-- `min(n + 1, 3)` on a 2-bit counter (R35, R183, R184, R187). -/
def satInc (n : BitVec 2) : BitVec 2 := BitVec.ofNat 2 (min (n.toNat + 1) 3)

/-- `err_cnt <- 0; nyet_cnt <- 0`: forward progress (R35). -/
def clearRetries (c : Channel) : Channel := { c with errCnt := 0, nyetCnt := 0 }

/-- The interrupt line (R46). -/
def irq (s : State) : Bool := s.hostMode && s.ch.any fun c => unmasked c != 0

end Sys2Proof.Machine
end

