-- ==== Sys2Proof/Machine/Ops.lean ====
section
/-! DEFINITION. The named operations the meanings share: access to channel records, memory primitives (R61), the output log (R45), responses (R100), the helpers R154 to R158, taking the sticky fault (R262) and reset, its only way out (R290). -/

namespace Sys2Proof.Machine

/-- What a meaning answers. -/
abbrev Result := Host.Outcome State Fault Refusal

/-- NCH (R7): the number of channel records, which no step changes. -/
def State.nch (s : State) : Nat := s.ch.length

/-- `ch[i]` (R14). Every rule reads it only for i < NCH. -/
def State.chan (s : State) (i : Nat) : Channel := s.ch.getD i Channel.reset

/-- `ch[i] <- c`. -/
def State.putChan (s : State) (i : Nat) (c : Channel) : State := { s with ch := s.ch.set i c }

/-- `emit(O)` (R14, R45): append to the output log. -/
def State.emit (s : State) (rs : List OutRec) : State := { s with out := s.out ++ rs }

/-- The effect of a handler on channel i: its new record, then its output records in order (R70, R73). -/
def State.apply (s : State) (i : Nat) (a : ChanStep) : State := (s.putChan i a.ch).emit a.out

/-- A handler that has changed nothing yet. -/
def ChanStep.start (c : Channel) : ChanStep := { ch := c, out := [] }

/-- Write fields of the channel under change. -/
def ChanStep.upd (a : ChanStep) (f : Channel → Channel) : ChanStep := { a with ch := f a.ch }

/-- Emit a record from the channel under change. -/
def ChanStep.emit (a : ChanStep) (r : OutRec) : ChanStep := { a with out := a.out ++ [r] }

/-- `request_halt(i)` (R154). -/
def requestHalt (i : Nat) (a : ChanStep) : ChanStep :=
  (a.emit (.HALT_REQ i)).upd fun c => { c with haltPending := true }

/-- The ARM record of channel i as it stands (R102). -/
def armRecord (i : Nat) (c : Channel) : OutRec :=
  .ARM i (pid c) (phase c) c.oddfrm (remaining c) (nextAddr c)

/-- `rearm(i)` (R19, R155). -/
def rearm (i : Nat) (a : ChanStep) : ChanStep :=
  (a.emit (armRecord i a.ch)).upd fun c => { c with armed := true, state := .IDLE }

/-- Re-arm control and bulk channels, leave periodic ones to the upper stack (R182, R183, R185, R187). -/
def rearmCtrlBulk (i : Nat) (a : ChanStep) : ChanStep :=
  if isCtrlBulk a.ch.epType then rearm i a else a

/-- `report(i, u)` (R156): the URB state is written before the record is emitted (R275). -/
def report (i : Nat) (u : UrbState) (a : ChanStep) : ChanStep :=
  (a.upd fun c => { c with urb := u }).emit (.URB i u)

/-- `retire(i)` (R158). -/
def retire (a : ChanStep) : ChanStep :=
  a.upd fun c => { c with configured := false, ssplit := false, csplit := false }

/-- A classification that requests a halt: the state that the CHH will dispatch on, then `request_halt(i)` (R170 to R177). -/
def classify (i : Nat) (st : ProtoState) (a : ChanStep) : ChanStep :=
  requestHalt i (a.upd fun c => { c with state := st })

/-- The byte a memory lists at an address, if an agent has written it. -/
def memLookup : Memory → Nat → Option Byte
  | [], _ => none
  | (x, b) :: m, a => if x = a then some b else memLookup m a

/-- One byte written; keeps the cells in strictly rising address order. -/
def memInsert (a : Nat) (b : Byte) : Memory → Memory
  | [] => [(a, b)]
  | (x, y) :: m =>
    if a < x then (a, b) :: (x, y) :: m
    else if a = x then (a, b) :: m
    else (x, y) :: memInsert a b m

/-- Bytes written to ascending addresses (R61, R64). -/
def memStore (a : Nat) : List Byte → Memory → Memory
  | [], m => m
  | b :: bs, m => memStore (a + 1) bs (memInsert a b m)

/-- The canonical form of a memory: addresses strictly rising and inside a space of `size` bytes. No cell equals what an unlisted address holds, since that is no known value (log 5). -/
def Memory.wf (size : Nat) : Memory → Bool
  | [] => true
  | [(a, _)] => decide (a < size)
  | (a, _) :: (x, y) :: m => decide (a < x) && Memory.wf size ((x, y) :: m)

/-- The memory of a space. -/
def State.mem (s : State) : Space → Memory
  | .SYS => s.sys
  | .PMA => s.pma

/-- The state with the memory of a space replaced. -/
def State.putMem (s : State) (sp : Space) (m : Memory) : State :=
  match sp with
  | .SYS => { s with sys := m }
  | .PMA => { s with pma := m }

/-- One byte of a space as MemRead sees it (R61): the written byte, or the free value of an unwritten one (log 5). -/
def State.byteAt (s : State) (sp : Space) (a : Nat) : Byte :=
  (memLookup (s.mem sp) a).getD (Config.powerOn sp a)

/-- Whether the n bytes from address a exist: inside the space (R61), and packet memory only on the FS variant (R60). -/
def inSpace (v : Variant) (sp : Space) (a n : Nat) : Bool :=
  decide (a + n ≤ Config.spaceSize sp) && (decide (sp = .SYS) || isFs v)

/-- The bytes at a, a + 1, ..., a + n - 1, in that order. -/
def State.bytesAt (s : State) (sp : Space) (a n : Nat) : List Byte :=
  (List.range n).map fun k => s.byteAt sp (a + k)

/-- `MemRead(space, addr, n)` (R61). -/
def memRead (sp : Space) (a n : Nat) (s : State) : Except Fault (List Byte) :=
  if inSpace s.variant sp a n then .ok (s.bytesAt sp a n) else .error (.noSuchAddress sp a)

/-- `MemWrite(space, addr, n, b)` (R61). -/
def memWrite (sp : Space) (a : Nat) (bs : List Byte) (s : State) : Except Fault State :=
  if inSpace s.variant sp a bs.length then .ok (s.putMem sp (memStore a bs (s.mem sp)))
  else .error (.noSuchAddress sp a)

/-- `MemWrite(dst, d, n, MemRead(src, a, n))`, the copy of R221 and R222. -/
def memCopy (dst : Space) (d : Nat) (src : Space) (a n : Nat) (s : State) : Except Fault State :=
  match memRead src a n s with
  | .error f => .error f
  | .ok bs => memWrite dst d bs s

/-- The received bytes `rx_data` (R16, R196): n bytes of the draw, in bus order. -/
def rxBytes (d : Draws) (n : Nat) : List Byte := (List.range n).map fun k => d.rxData.getD k 0

/-- `respond(st, data)` (R100, R101): ends a command step with its response. -/
def respond (st : Status) (data : BitVec 60) (s : State) : Result :=
  .next { s with resp := some (respWord st data) }

/-- `raise Fault(code)(w)` (R262), the block's one exception: it records the code and the whole input word in the sticky fault register and changes nothing else. Nothing is saved, no mode changes and there is no handler address: the fault is observed by reading the register. -/
def raiseFault (code : FaultCode) (w : Word) (s : State) : State :=
  { s with fault := { valid := true, code := code, word := w } }

/-- Reset (R290), the only way out of the sticky fault: every field of R49 takes its reset value; the parameters, the mode input, the memories and what the environment does next are not the block's to reset (R43, R60; log 25). -/
def hwReset (s : State) : State :=
  { s with
    ch := s.ch.map fun _ => Channel.reset
    port := Port.reset
    fault := FaultReg.reset
    out := []
    resp := none }

end Sys2Proof.Machine
end

