-- ==== Sys2Proof/Machine/DoubleBuffer.lean ====
section
/-! DEFINITION. The double-buffer manager of the FS variant: giving a slot the next part of a transfer, preload, refill and completion (spec/43_double_buffer.md R221, R223, R224). -/

namespace Sys2Proof.Machine

/-- `give(c, b, m)` (R221) on channel i: for OUT the next m bytes are copied into slot b and LOAD is emitted, for IN the slot is granted with RELEASE; either way m more bytes of the transfer are in packet memory's hands. -/
def give (i : Nat) (b : Bool) (m : Nat) (s : State) : Except Fault State :=
  let c := s.chan i
  let c' := { c with loaded := BitVec.ofNat 19 (c.loaded.toNat + m) }
  match c.dir with
  | .OUT =>
    match memCopy .PMA (bufAddr c b) .SYS (c.xferBuf.toNat + c.loaded.toNat) m s with
    | .error f => .error f
    | .ok s1 => .ok ((s1.putChan i c').emit [.LOAD i b m])
  | .IN => .ok ((s.putChan i c').emit [.RELEASE i b])

/-- The size of the next part of channel i's transfer to give: at most one packet (R221, R223). -/
def nextPart (c : Channel) : Nat := min c.mps.toNat (c.xferLen.toNat - c.loaded.toNat)

/-- `preload(c)` (R221): slot 0 always, even for a zero-length transfer, then slot 1 if any of the transfer is left. -/
def preload (i : Nat) (s : State) : Except Fault State :=
  let s0 := s.putChan i { s.chan i with swBuf := false, loaded := 0 }
  match give i false (nextPart (s0.chan i)) s0 with
  | .error f => .error f
  | .ok s1 =>
    if (s1.chan i).loaded.toNat < (s1.chan i).xferLen.toNat then give i true (nextPart (s1.chan i)) s1
    else .ok s1

/-- `refill(c, b)` (R223): the slot just completed gets the next part of the transfer, if any part has not been given yet. `fill_busy` is 1 only inside the step (R37). -/
def refill (i : Nat) (b : Bool) (s : State) : Except Fault State :=
  let s0 := s.putChan i { s.chan i with fillBusy := true }
  let given :=
    if (s0.chan i).loaded.toNat < (s0.chan i).xferLen.toNat then give i b (nextPart (s0.chan i)) s0
    else .ok s0
  match given with
  | .error f => .error f
  | .ok s1 => .ok (s1.putChan i { s1.chan i with swBuf := !b, fillBusy := false })

/-- `dbuf_done(c)` (R224): no halt is requested. -/
def dbufDone (i : Nat) (a : ChanStep) : ChanStep :=
  report i .DONE ((a.upd fun c => { c with state := .XFRC, armed := false }).emit (.PATH_DISABLE i))

/-- The bookkeeping of an acknowledged packet of n bytes (R222): count, retry counters, and one toggle flip unless isochronous. -/
def countPacket (n : BitVec 19) (c : Channel) : Channel :=
  let c1 := clearRetries { c with xferCount := c.xferCount + n }
  if c1.epType = .ISOC then c1 else setTgl (!tgl c1) c1

end Sys2Proof.Machine
end

