-- ==== Sys2Proof/Machine/Split.lean ====
section
/-! DEFINITION. The split-transaction scheduler's rules that the handlers call (spec/42_split.md R201, R203) and the split phase a SUBMIT starts in (spec/40_commands.md R123). -/

namespace Sys2Proof.Machine

/-- `split_ack(i)` (R201): the start-split was acknowledged, the complete-split is pending; reprogrammed at the CHH. -/
def splitAck (i : Nat) (a : ChanStep) : ChanStep :=
  classify i .ACK
    (a.upd fun c => { clearRetries c with ssplit := false, csplit := true })

/-- `split_nak(i)` (R203): a NAK to a complete-split restarts at the start-split. -/
def splitNak (c : Channel) : Channel :=
  if c.csplit then { c with csplit := false, ssplit := true } else c

/-- Split phase at SUBMIT (R123): a fresh split transfer starts in start-split phase, one awaiting its complete-split resumes there. -/
def splitPhaseAtSubmit (c : Channel) : Channel :=
  if c.doSplit = true ∧ c.csplit = false then { c with ssplit := true } else c

end Sys2Proof.Machine
end

