-- ==== Sys2Proof/Machine/Commands.lean ====
section
/-! DEFINITION. The host commands (spec/40_commands.md): checks in the order of R145, then the effect, then the response. -/

namespace Sys2Proof.Machine

/-- The record CONFIG writes (R110), from the record before it. `armed` and `halt_pending` are the two fields R110 does not write (log 18). -/
def configure (dir : Dir) (et : EpType) (sp : Speed) (da : BitVec 7) (en : BitVec 4)
    (mps : BitVec 11) (c : Channel) : Channel :=
  { c with
    dir := dir, epType := et, speed := sp, devAddr := da, epNum := en, mps := mps
    setup := false, toggleIn := false, toggleOut := false, tgl0 := false
    state := .HALTED, urb := .IDLE
    xferBuf := 0, xferLen := 0, xferCount := 0
    hubAddr := 0, hubPort := 0, doSplit := false
    ssplit := false, csplit := false, resched := false
    errCnt := 0, nyetCnt := 0, oddfrm := false
    dbufEn := false, bufAddr0 := 0, bufAddr1 := 0
    swBuf := false, loaded := 0, fillBusy := false
    hcint := 0, imsk := 0x3FF, resid := 0
    configured := true }

/-- CONFIG (R110, R111). -/
def execConfig (c : ChanIx) (dir : Dir) (et : EpType) (sp : BitVec 2) (da : BitVec 7)
    (en : BitVec 4) (mps : BitVec 11) (s : State) : Result :=
  if s.nch ≤ c.toNat then respond .ERR_RANGE 0 s
  else if (s.chan c.toNat).armed then respond .ERR_BUSY 0 s
  else
    match cfgSpeed s.variant sp mps with
    | none => respond .ERR_PARAM 0 s
    | some spd =>
      respond .OK 0 (s.putChan c.toNat (configure dir et spd da en mps (s.chan c.toNat)))

/-- The record CONFIG_DBUF writes (R115). -/
def configureDbuf (en : Bool) (b0 b1 : BitVec 16) (c : Channel) : Channel :=
  { c with
    dbufEn := en
    bufAddr0 := if en then b0 else 0
    bufAddr1 := if en then b1 else 0
    swBuf := false, loaded := 0, fillBusy := false }

/-- CONFIG_DBUF (R115, R116). -/
def execConfigDbuf (c : ChanIx) (en : Bool) (b0 b1 : BitVec 16) (s : State) : Result :=
  if s.nch ≤ c.toNat then respond .ERR_RANGE 0 s
  else if (s.chan c.toNat).configured = false then respond .ERR_NOTCFG 0 s
  else if (s.chan c.toNat).armed then respond .ERR_BUSY 0 s
  else if en = true ∧ dbufOk s.variant (s.chan c.toNat) b0 b1 = false then respond .ERR_PARAM 0 s
  else respond .OK 0 (s.putChan c.toNat (configureDbuf en b0 b1 (s.chan c.toNat)))

/-- Forced toggles at SUBMIT (R120), on the record that already holds the transfer's direction. -/
def forceToggles (su : Bool) (et : EpType) (dir : Dir) (len : BitVec 19) (c : Channel) : Channel :=
  if su then { c with toggleOut := true }
  else if et = .CTRL ∧ dir = .OUT ∧ len = 0 then { c with toggleOut := true }
  else if et = .CTRL ∧ dir = .IN ∧ len = 0 then { c with toggleIn := true }
  else if et = .CTRL ∧ dir = .IN ∧ c.doSplit = false then { c with toggleIn := true }
  else c

/-- The odd-frame bit at SUBMIT of a periodic transfer (R124): 1 when the frame number is even. -/
def frameParity (et : EpType) (frame : BitVec 16) (c : Channel) : Channel :=
  if isPeriodic et then { c with oddfrm := decide (frame.toNat % 2 = 0) } else c

/-- Everything SUBMIT writes before it asks the transceiver to start (R121). -/
def programTransfer (dir : Dir) (et : EpType) (su : Bool) (len : BitVec 19) (buf : BitVec 32)
    (frame : BitVec 16) (c : Channel) : Channel :=
  let c1 := { c with
    dir := dir, epType := et, setup := su
    xferBuf := buf, xferLen := len, xferCount := 0, resched := false }
  let c2 := forceToggles su et dir len c1
  let c3 := splitPhaseAtSubmit { c2 with tgl0 := tgl c2 }
  frameParity et frame { c3 with hcint := 0, state := .IDLE, urb := .IDLE }

/-- `if dbuf_en = 1: preload` (R121). -/
def preloadIfDbuf (i : Nat) (s : State) : Except Fault State :=
  if (s.chan i).dbufEn then preload i s else .ok s

/-- The last lines of SUBMIT: emit ARM and set `armed` (R121). -/
def armSubmitted (i : Nat) (c : Channel) : ChanStep :=
  ((ChanStep.start c).emit (armRecord i c)).upd fun c => { c with armed := true }

/-- SUBMIT (R120 to R124). -/
def execSubmit (c : ChanIx) (dir : Dir) (et : EpType) (su : Bool) (len : BitVec 19)
    (buf : BitVec 32) (s : State) : Result :=
  if s.nch ≤ c.toNat then respond .ERR_RANGE 0 s
  else if (s.chan c.toNat).configured = false then respond .ERR_NOTCFG 0 s
  else if (s.chan c.toNat).armed then respond .ERR_BUSY 0 s
  else if subOk s.variant (s.chan c.toNat) dir et su len buf = false then respond .ERR_PARAM 0 s
  else
    let c1 := programTransfer dir et su len buf s.draws.frame (s.chan c.toNat)
    if s.draws.hwOk = false then respond .ERR_HW 0 (s.putChan c.toNat { c1 with state := .HALTED })
    else
      match preloadIfDbuf c.toNat (s.putChan c.toNat c1) with
      | .error f => .fault f
      | .ok s2 => respond .OK 0 (s2.apply c.toNat (armSubmitted c.toNat (s2.chan c.toNat)))

/-- What HALT does to an armed channel with no halt pending (R131). -/
def haltNow (i : Nat) (c : Channel) : ChanStep :=
  ((ChanStep.start c).emit (.HALT_REQ i)).upd fun c =>
    { c with armed := false, state := .HALTED, ssplit := false, csplit := false }

/-- HALT (R131): a no-op unless the channel is armed with no halt pending. -/
def execHalt (c : ChanIx) (s : State) : Result :=
  if s.nch ≤ c.toNat then respond .ERR_RANGE 0 s
  else if (s.chan c.toNat).armed = false ∨ (s.chan c.toNat).haltPending = true then respond .OK 0 s
  else
    respond (if s.draws.hwOk then .OK else .ERR_HW) 0
      (s.apply c.toNat (haltNow c.toNat (s.chan c.toNat)))

/-- The routing fields and the split flags both hub commands write (R140, R141). -/
def routeHub (ha hp : BitVec 7) (split : Bool) (c : Channel) : Channel :=
  { c with
    hubAddr := ha, hubPort := hp, doSplit := split
    ssplit := false, csplit := false, resched := false }

/-- SET_HUB (R140): split tokens only on the OTG variant and only for a full- or low-speed device. -/
def execSetHub (c : ChanIx) (ha hp : BitVec 7) (s : State) : Result :=
  if s.nch ≤ c.toNat then respond .ERR_RANGE 0 s
  else if (s.chan c.toNat).configured = false then respond .ERR_NOTCFG 0 s
  else if (s.chan c.toNat).armed then respond .ERR_BUSY 0 s
  else
    respond .OK 0
      (s.putChan c.toNat
        (routeHub ha hp (!isFs s.variant && decide ((s.chan c.toNat).speed ≠ .HS)) (s.chan c.toNat)))

/-- CLEAR_HUB (R141). -/
def execClearHub (c : ChanIx) (s : State) : Result :=
  if s.nch ≤ c.toNat then respond .ERR_RANGE 0 s
  else if (s.chan c.toNat).configured = false then respond .ERR_NOTCFG 0 s
  else if (s.chan c.toNat).armed then respond .ERR_BUSY 0 s
  else respond .OK 0 (s.putChan c.toNat (routeHub 0 0 false (s.chan c.toNat)))

/-- The DATA of GET_URB (R100, R143): `resched` in bit 3, `urb` in bits 2:0. -/
def urbData (c : Channel) : BitVec 60 := (BitVec.ofBool c.resched ++ urbCode c.urb).setWidth 60

/-- GET_URB (R143). -/
def execGetUrb (c : ChanIx) (s : State) : Result :=
  if s.nch ≤ c.toNat then respond .ERR_RANGE 0 s
  else respond .OK (urbData (s.chan c.toNat)) s

/-- GET_COUNT (R144). -/
def execGetCount (c : ChanIx) (s : State) : Result :=
  if s.nch ≤ c.toNat then respond .ERR_RANGE 0 s
  else respond .OK ((s.chan c.toNat).xferCount.setWidth 60) s

end Sys2Proof.Machine
end

