-- ==== Sys2Proof/Machine/Handlers.lean ====
section
/-! DEFINITION. The per-channel protocol state machine: the handlers of the classifying events and of the halt confirmation (spec/41_channel_events.md R151 to R187). A handler takes channel i's record and answers the new record and the output records it emits, so it can touch no other channel and no memory (R73). -/

namespace Sys2Proof.Machine

/-- Transfer count at XFRC (R161): residual arithmetic for OUT and for DMA, else the count the packet events accumulated. -/
def countAtXfrc (v : Variant) (c : Channel) : Channel :=
  if c.dir = .OUT ∨ dmaOn v = true then { c with xferCount := c.xferLen - c.resid } else c

/-- The toggle law of R160: one flip per packet over the whole transfer; isochronous channels and SETUP transfers keep their toggle. -/
def toggleAtXfrc (c : Channel) : Channel :=
  if c.epType ≠ .ISOC ∧ c.setup = false then
    setTgl (c.tgl0 ^^ decide (npk c.xferCount.toNat c.mps.toNat % 2 = 1)) c
  else c

/-- `xfrc(i)` (R160): control and bulk request a halt and report DONE at its CHH; periodic channels complete at once. -/
def xfrc (v : Variant) (i : Nat) (c : Channel) : ChanStep :=
  let c1 := toggleAtXfrc (countAtXfrc v (dropFlag .NAK (dropFlag .ACK (clearRetries c))))
  let c2 := { c1 with ssplit := false, csplit := false, state := .XFRC }
  if isCtrlBulk c2.epType then requestHalt i (ChanStep.start c2)
  else
    report i .DONE
      (((ChanStep.start { c2 with oddfrm := !c2.oddfrm }).emit (.ODDFRM i (!c2.oddfrm))).upd
        fun c => { c with armed := false })

/-- `ack(i)` (R165, R204): a start-split ACK, except on isochronous OUT, moves to the complete-split; any other ACK only clears the retry counters. -/
def ack (i : Nat) (c : Channel) : ChanStep :=
  if c.doSplit = true ∧ c.ssplit = true ∧ ¬(c.epType = .ISOC ∧ c.dir = .OUT) then
    splitAck i (ChanStep.start c)
  else ChanStep.start (clearRetries c)

/-- `state <- NAK; split_nak(i); request_halt(i)` (R167). -/
def nakHalt (i : Nat) (c : Channel) : ChanStep :=
  requestHalt i (ChanStep.start (splitNak { c with state := .NAK }))

/-- `nak(i)` (R167): interrupt channels halt; control and bulk clear `err_cnt` and halt unless the DMA hardware retries by itself; isochronous channels ignore it. -/
def nak (v : Variant) (i : Nat) (c : Channel) : ChanStep :=
  match c.epType with
  | .INTR => nakHalt i c
  | .ISOC => ChanStep.start c
  | .CTRL =>
    if dmaOn v = false ∨ c.csplit = true then nakHalt i { c with errCnt := 0 }
    else ChanStep.start { c with errCnt := 0 }
  | .BULK =>
    if dmaOn v = false ∨ c.csplit = true then nakHalt i { c with errCnt := 0 }
    else ChanStep.start { c with errCnt := 0 }

/-- `stall(i)` (R170). -/
def stall (i : Nat) (c : Channel) : ChanStep := classify i .STALL (ChanStep.start c)

/-- `xacterr(i)` (R172). -/
def xacterr (i : Nat) (c : Channel) : ChanStep := classify i .XACTERR (ChanStep.start c)

/-- `bblerr(i)` (R173). -/
def bblerr (i : Nat) (c : Channel) : ChanStep := classify i .BBLERR (ChanStep.start c)

/-- `dterr(i)` (R174): the toggles are not changed. -/
def dterr (i : Nat) (c : Channel) : ChanStep := classify i .DATATGLERR (ChanStep.start c)

/-- `frmor(i)` (R175): counted as a transaction error. -/
def frmor (i : Nat) (c : Channel) : ChanStep := classify i .XACTERR (ChanStep.start c)

/-- `nyet(i)` (R177). -/
def nyet (i : Nat) (c : Channel) : ChanStep := classify i .NYET (ChanStep.start c)

/-- CHH from ACK (R182): the complete-split is programmed; control and bulk are re-armed in that phase. -/
def chhAck (i : Nat) (a : ChanStep) : ChanStep :=
  rearmCtrlBulk i (((report i .NOTREADY a).emit (.SET_CSPLIT i)).upd openSplitMasks)

/-- CHH from XACTERR or DATATGLERR (R183): retried up to ERR_LIMIT, then terminal. -/
def chhError (i : Nat) (a : ChanStep) : ChanStep :=
  let a1 := a.upd fun c => { c with errCnt := satInc c.errCnt }
  if Config.errLimit < a1.ch.errCnt.toNat then
    retire (report i .ERROR (a1.upd fun c => { c with errCnt := 0 }))
  else rearmCtrlBulk i (report i .NOTREADY a1)

/-- CHH from BBLERR (R184): never retried. -/
def chhBabble (i : Nat) (a : ChanStep) : ChanStep :=
  retire (report i .ERROR (a.upd fun c => { c with errCnt := satInc c.errCnt }))

/-- CHH from NAK (R185). -/
def chhNak (i : Nat) (a : ChanStep) : ChanStep := rearmCtrlBulk i (report i .NOTREADY a)

/-- CHH from NYET on an interrupt channel (R187, R205): bounded by NYET_LIMIT, then ERROR with a request to reschedule from a start-split. -/
def chhNyetIntr (i : Nat) (a : ChanStep) : ChanStep :=
  let a1 := a.upd fun c => { c with nyetCnt := satInc c.nyetCnt }
  if Config.nyetLimit < a1.ch.nyetCnt.toNat then
    report i .ERROR
      (a1.upd fun c => { c with nyetCnt := 0, csplit := false, ssplit := false, resched := true })
  else report i .NOTREADY a1

/-- CHH from NYET (R187): control and bulk re-issue the complete-split without a bound, isochronous channels only report. -/
def chhNyet (i : Nat) (a : ChanStep) : ChanStep :=
  match a.ch.epType with
  | .INTR => chhNyetIntr i a
  | .CTRL => rearm i (report i .NOTREADY a)
  | .BULK => rearm i (report i .NOTREADY a)
  | .ISOC => report i .NOTREADY a

/-- What a CHH does by the state that requested the halt (R180), on the channel already HALTED. -/
def chhFrom (st : ProtoState) (i : Nat) (a : ChanStep) : ChanStep :=
  match st with
  | .XFRC => report i .DONE a
  | .STALL => retire (report i .STALL a)
  | .XACTERR => chhError i a
  | .DATATGLERR => chhError i a
  | .BBLERR => chhBabble i a
  | .NAK => chhNak i a
  | .ACK => chhAck i a
  | .NYET => chhNyet i a
  | .IDLE => a
  | .HALTED => a

/-- `chh(i)` (R180): the quiesced case of R181 writes `state <- HALTED` and nothing else. -/
def chh (i : Nat) (c : Channel) : ChanStep :=
  if c.armed = false ∧ c.haltPending = false then ChanStep.start { c with state := .HALTED }
  else
    chhFrom c.state i
      (ChanStep.start { c with haltPending := false, armed := false, state := .HALTED })

/-- `handle(i, k)` (R151), after the dispatcher has cleared the flag: CHH always runs; a classifying event is stale on an unarmed channel (R152) and discarded while a halt is pending (R153). -/
def handle (v : Variant) (i : Nat) (k : ChanEvent) (c : Channel) : ChanStep :=
  match k with
  | .CHH => chh i c
  | .XFRC => if c.armed = false ∨ c.haltPending = true then ChanStep.start c else xfrc v i c
  | .ACK => if c.armed = false ∨ c.haltPending = true then ChanStep.start c else ack i c
  | .NAK => if c.armed = false ∨ c.haltPending = true then ChanStep.start c else nak v i c
  | .STALL => if c.armed = false ∨ c.haltPending = true then ChanStep.start c else stall i c
  | .XACTERR => if c.armed = false ∨ c.haltPending = true then ChanStep.start c else xacterr i c
  | .BBLERR => if c.armed = false ∨ c.haltPending = true then ChanStep.start c else bblerr i c
  | .DTERR => if c.armed = false ∨ c.haltPending = true then ChanStep.start c else dterr i c
  | .FRMOR => if c.armed = false ∨ c.haltPending = true then ChanStep.start c else frmor i c
  | .NYET => if c.armed = false ∨ c.haltPending = true then ChanStep.start c else nyet i c

end Sys2Proof.Machine
end

