-- ==== Sys2Proof/Machine/Demux.lean ====
section
/-! DEFINITION. The interrupt demultiplexer (spec/44_dispatch_and_port.md R240, R241): the meaning of DISPATCH. -/

namespace Sys2Proof.Machine

/-- One channel's share of a DISPATCH (R240): the first unmasked pending flag is cleared and handled; a channel with none is not touched. -/
def dispatchChan (v : Variant) (i : Nat) (c : Channel) : ChanStep :=
  match firstFlag c with
  | none => ChanStep.start c
  | some k => handle v i k (dropFlag k c)

/-- The channels from index i up, in ascending order (R240, R271). A handler reads and writes its own channel only (R73), so taking each channel as it is reached is the same as taking the bitmap snapshot first (log 14). -/
def demux (v : Variant) (i : Nat) : List Channel → List Channel × List OutRec
  | [] => ([], [])
  | c :: cs =>
    let a := dispatchChan v i c
    let r := demux v (i + 1) cs
    (a.ch :: r.1, a.out ++ r.2)

/-- DISPATCH (R240): nothing in device mode; otherwise one flag of every channel that has an unmasked one. -/
def execDispatch (s : State) : Result :=
  if s.hostMode then
    let r := demux s.variant 0 s.ch
    .next { s with ch := r.1, out := s.out ++ r.2 }
  else .next s

end Sys2Proof.Machine
end

