-- ==== Sys2Proof/Machine/Events.lean ====
section
/-! DEFINITION. The event words of the transceiver: the ten latching events (spec/41_channel_events.md R150), the packet event (R196) and the double-buffer acknowledgement (spec/43_double_buffer.md R222). -/

namespace Sys2Proof.Machine

/-- A latching event other than XFRC (R150): out of range it faults, else the flag latches whatever the channel's state and the mode. -/
def latchEvent (k : ChanEvent) (c : ChanIx) (w : Word) (s : State) : Result :=
  if s.nch ≤ c.toNat then .next (raiseFault .CH_RANGE w s)
  else .next (s.putChan c.toNat (latchFlag k (s.chan c.toNat)))

/-- EV_XFRC (R150): also checks and latches the residual count. -/
def execEvXfrc (c : ChanIx) (resid : BitVec 19) (s : State) : Result :=
  if s.nch ≤ c.toNat then .next (raiseFault .CH_RANGE (encode (.evXfrc c resid)) s)
  else if isFs s.variant = true ∧ (s.chan c.toNat).dbufEn = true then
    .next (raiseFault .UNEXPECTED_EVENT (encode (.evXfrc c resid)) s)
  else if (s.chan c.toNat).xferLen.toNat < resid.toNat then
    .next (raiseFault .UNEXPECTED_EVENT (encode (.evXfrc c resid)) s)
  else .next (s.putChan c.toNat (latchFlag .XFRC { s.chan c.toNat with resid := resid }))

/-- EV_ACK (R150). -/
def execEvAck (c : ChanIx) (s : State) : Result := latchEvent .ACK c (encode (.evAck c)) s

/-- EV_NAK (R150). -/
def execEvNak (c : ChanIx) (s : State) : Result := latchEvent .NAK c (encode (.evNak c)) s

/-- EV_STALL (R150). -/
def execEvStall (c : ChanIx) (s : State) : Result := latchEvent .STALL c (encode (.evStall c)) s

/-- EV_XACTERR (R150). -/
def execEvXacterr (c : ChanIx) (s : State) : Result :=
  latchEvent .XACTERR c (encode (.evXacterr c)) s

/-- EV_BBLERR (R150). -/
def execEvBblerr (c : ChanIx) (s : State) : Result := latchEvent .BBLERR c (encode (.evBblerr c)) s

/-- EV_DTERR (R150). -/
def execEvDterr (c : ChanIx) (s : State) : Result := latchEvent .DTERR c (encode (.evDterr c)) s

/-- EV_FRMOR (R150). -/
def execEvFrmor (c : ChanIx) (s : State) : Result := latchEvent .FRMOR c (encode (.evFrmor c)) s

/-- EV_NYET (R150). -/
def execEvNyet (c : ChanIx) (s : State) : Result := latchEvent .NYET c (encode (.evNyet c)) s

/-- EV_CHH (R150). -/
def execEvChh (c : ChanIx) (s : State) : Result := latchEvent .CHH c (encode (.evChh c)) s

/-- A packet that passes the requested length (R196, R222): babble, unless a halt is already pending. -/
def overflow (i : Nat) (c : Channel) : ChanStep :=
  if c.haltPending then ChanStep.start c else classify i .BBLERR (ChanStep.start c)

/-- The bookkeeping of a received packet of n bytes (R196), after its bytes are stored: the count, the retry counters, and for a full packet with more to come one toggle flip (not isochronous) and the re-arm (not while a halt is pending). -/
def acceptPacket (i : Nat) (n : BitVec 19) (more : Bool) (c : Channel) : ChanStep :=
  let c1 := clearRetries { c with xferCount := c.xferCount + n }
  if n.toNat = c1.mps.toNat ∧ more = true then
    let c2 := if c1.epType = .ISOC then c1 else { c1 with toggleIn := !c1.toggleIn }
    if c2.haltPending then ChanStep.start c2 else rearm i (ChanStep.start c2)
  else ChanStep.start c1

/-- EV_PKT (R196). -/
def execEvPkt (c : ChanIx) (n : BitVec 19) (more : Bool) (s : State) : Result :=
  if s.nch ≤ c.toNat then .next (raiseFault .CH_RANGE (encode (.evPkt c n more)) s)
  else if isFs s.variant = true ∨ dmaOn s.variant = true ∨ (s.chan c.toNat).dir = .OUT
      ∨ (s.chan c.toNat).armed = false then
    .next (raiseFault .UNEXPECTED_EVENT (encode (.evPkt c n more)) s)
  else if (s.chan c.toNat).xferLen.toNat < (s.chan c.toNat).xferCount.toNat + n.toNat then
    .next (s.apply c.toNat (overflow c.toNat (s.chan c.toNat)))
  else
    match memWrite .SYS (nextAddr (s.chan c.toNat)) (rxBytes s.draws n.toNat) s with
    | .error f => .fault f
    | .ok s1 => .next (s1.apply c.toNat (acceptPacket c.toNat n more (s1.chan c.toNat)))

/-- The data of an acknowledged packet (R222): an IN packet is copied from its slot to system memory, an OUT packet was copied when the slot was filled. -/
def drainSlot (i : Nat) (b : Bool) (n : Nat) (s : State) : Except Fault State :=
  match (s.chan i).dir with
  | .IN => memCopy .SYS (nextAddr (s.chan i)) .PMA (bufAddr (s.chan i) b) n s
  | .OUT => .ok s

/-- What follows the bookkeeping of an acknowledgement (R222): refill while bytes remain, else completion. -/
def ackTail (i : Nat) (b : Bool) (s : State) : Result :=
  if remaining (s.chan i) ≠ 0 then
    match refill i b s with
    | .error f => .fault f
    | .ok s1 => .next s1
  else .next (s.apply i (dbufDone i (ChanStep.start (s.chan i))))

/-- EV_DBUF_ACK (R222). -/
def execEvDbufAck (c : ChanIx) (bufsel : Bool) (n : BitVec 19) (s : State) : Result :=
  if s.nch ≤ c.toNat then .next (raiseFault .CH_RANGE (encode (.evDbufAck c bufsel n)) s)
  else if isFs s.variant = false ∨ (s.chan c.toNat).dbufEn = false
      ∨ (s.chan c.toNat).armed = false then
    .next (raiseFault .UNEXPECTED_EVENT (encode (.evDbufAck c bufsel n)) s)
  else if (s.chan c.toNat).haltPending then .next s
  else if remaining (s.chan c.toNat) < n.toNat ∨ (s.chan c.toNat).mps.toNat < n.toNat then
    .next (s.apply c.toNat (overflow c.toNat (s.chan c.toNat)))
  else
    match drainSlot c.toNat bufsel n.toNat s with
    | .error f => .fault f
    | .ok s1 => ackTail c.toNat bufsel (s1.putChan c.toNat (countPacket n (s1.chan c.toNat)))

end Sys2Proof.Machine
end

