-- ==== Sys2Proof/Machine/PortEvents.lean ====
section
/-! DEFINITION. The host-port events (spec/44_dispatch_and_port.md R250 to R255). They write the port record and the log only. -/

namespace Sys2Proof.Machine

/-- CONNECT (R251). -/
def portConnect (sp : Speed) (s : State) : State :=
  { s with port := { s.port with conn := .CONNECTED, speed := sp } }.emit [.PORTCB .CONNECT]

/-- DISCONNECT (R252): the flush precedes the callback; no channel is touched. -/
def portDisconnect (s : State) : State :=
  { s with port := { s.port with conn := .DISCONNECTED } }.emit [.FLUSH_FIFOS, .PORTCB .DISCONNECT]

/-- ENABLE (R253). -/
def portEnable (sp : Speed) (s : State) : State :=
  { s with port := { s.port with conn := .RUNNING, speed := sp } }.emit [.PORTCB .ENABLED]

/-- DISABLE (R254): a disconnected port stays disconnected, and the callback is passed on in every case. -/
def portDisable (s : State) : State :=
  { s with port := { s.port with
      conn := if s.port.conn = PortConn.DISCONNECTED then s.port.conn else .CONNECTED } }.emit
    [.PORTCB .DISABLED]

/-- OVERCURRENT (R255): a sticky bit, no callback. -/
def portOvercurrent (s : State) : State := { s with port := { s.port with ovrcur := true } }

/-- The case analysis of R250. -/
def portEvent (e : PortEvent) (sp : Speed) (s : State) : State :=
  match e with
  | .CONNECT => portConnect sp s
  | .DISCONNECT => portDisconnect s
  | .ENABLE => portEnable sp s
  | .DISABLE => portDisable s
  | .OVERCURRENT => portOvercurrent s

/-- EV_PORT (R250): ignored in device mode. A reserved PEV or SPEED spells no operation (R94), so a term that holds one raises ILLEGAL_OP like its word (log 23). -/
def execEvPort (pev : BitVec 3) (sp : BitVec 2) (s : State) : Result :=
  match portEventOfCode pev, speedOfCode sp with
  | some e, some spd => if s.hostMode then .next (portEvent e spd s) else .next s
  | none, _ => .next (raiseFault .ILLEGAL_OP (encode (.evPort pev sp)) s)
  | _, none => .next (raiseFault .ILLEGAL_OP (encode (.evPort pev sp)) s)

end Sys2Proof.Machine
end

