-- ==== Sys2Proof/Machine/Dispatch.lean ====
section
/-! DEFINITION. One arm per constructor of Instr, each a direct call of the instruction's meaning (spec/30_encoding.md R93). -/

namespace Sys2Proof.Machine

def exec (i : Instr) (s : State) : Host.Outcome State Fault Refusal :=
  match i with
  | .config c dir et sp da en mps => Sys2Proof.Machine.execConfig c dir et sp da en mps s
  | .configDbuf c en b0 b1 => Sys2Proof.Machine.execConfigDbuf c en b0 b1 s
  | .submit c dir et su len buf => Sys2Proof.Machine.execSubmit c dir et su len buf s
  | .halt c => Sys2Proof.Machine.execHalt c s
  | .setHub c ha hp => Sys2Proof.Machine.execSetHub c ha hp s
  | .clearHub c => Sys2Proof.Machine.execClearHub c s
  | .getUrb c => Sys2Proof.Machine.execGetUrb c s
  | .getCount c => Sys2Proof.Machine.execGetCount c s
  | .evXfrc c resid => Sys2Proof.Machine.execEvXfrc c resid s
  | .evAck c => Sys2Proof.Machine.execEvAck c s
  | .evNak c => Sys2Proof.Machine.execEvNak c s
  | .evStall c => Sys2Proof.Machine.execEvStall c s
  | .evXacterr c => Sys2Proof.Machine.execEvXacterr c s
  | .evBblerr c => Sys2Proof.Machine.execEvBblerr c s
  | .evDterr c => Sys2Proof.Machine.execEvDterr c s
  | .evFrmor c => Sys2Proof.Machine.execEvFrmor c s
  | .evNyet c => Sys2Proof.Machine.execEvNyet c s
  | .evChh c => Sys2Proof.Machine.execEvChh c s
  | .evPkt c n more => Sys2Proof.Machine.execEvPkt c n more s
  | .evDbufAck c bufsel n => Sys2Proof.Machine.execEvDbufAck c bufsel n s
  | .evPort pev sp => Sys2Proof.Machine.execEvPort pev sp s
  | .dispatch => Sys2Proof.Machine.execDispatch s

end Sys2Proof.Machine
end

