-- ==== Sys2Proof/Machine/Sequencer.lean ====
section
/-! DEFINITION. What the sequencer does with one item of its input queue: an input word (R15, R96, R262), or an action of the environment between two words (R17). -/

namespace Sys2Proof.Machine

/-- The state in which a word is processed: its draws stand ready and the last step's response is gone (R15, R16, R100). -/
def beginWord (d : Draws) (s : State) : State := { s with draws := d, resp := none }

/-- A word taken while the fault register is set (R262): consumed with no effect and no response. -/
def dropWord (s : State) : State := { s with resp := none }

/-- One input word (R15): dropped while the fault register is set (R262), ILLEGAL_OP where it spells no operation (R94, R96), else the instruction it decodes to. -/
def takeWord (w : Word) (d : Draws) (s : State) : Result :=
  if s.fault.valid then .next (dropWord s)
  else
    match decode w with
    | .error _ => .next (raiseFault .ILLEGAL_OP w (beginWord d s))
    | .ok i => exec i (beginWord d s)

/-- One item of the input queue. -/
def takeStimulus (x : Stimulus) (s : State) : Result :=
  match x with
  | .word w d => takeWord w d s
  | .hostMode b => .next { s with hostMode := b }
  | .memWrite sp a bs =>
    match memWrite sp a bs s with
    | .error f => .fault f
    | .ok s1 => .next s1
  | .reset => .next (hwReset s)

end Sys2Proof.Machine
end

