-- ==== Sys2Proof/Machine/Step.lean ====
section
/-! DEFINITION. One step of the machine: the next item of the input queue is taken and processed; with none the block waits (R15, R290). -/

namespace Sys2Proof.Machine

/-- One step. -/
def step (s : State) : Host.Outcome State Fault Refusal :=
  match s.inputs with
  | [] => .next s
  | x :: rest => takeStimulus x { s with inputs := rest }

/-- The state with the word of a table row next at the input, and nothing else changed: the draws that stand in the state are the word's draws (log 19). -/
def State.withFetchWord (s : State) (nbits w : Nat) : State :=
  { s with inputs := .word (BitVec.ofNat 64 (w % 2 ^ nbits)) s.draws :: s.inputs }

end Sys2Proof.Machine
end

