-- ==== Sys2Proof/Asm.lean ====
section
/-! DEFINITION. The assembly text of an input word and of its draws (spec/30_encoding.md R97). Text only: no step reads it. -/

namespace Sys2Proof

open Sys2Proof.Machine

/-- A number, in decimal (R97 admits decimal and hexadecimal; log 22). -/
def asmBits {w : Nat} (b : BitVec w) : String := toString b.toNat

/-- A bit operand, as its number. -/
def asmBit (b : Bool) : String := if b then "1" else "0"

/-- DIR by name. -/
def asmDir : Dir → String
  | .OUT => "OUT"
  | .IN => "IN"

/-- EPTYPE by name. -/
def asmEpType : EpType → String
  | .CTRL => "CTRL"
  | .ISOC => "ISOC"
  | .BULK => "BULK"
  | .INTR => "INTR"

/-- SPEED by name, or as its number where the value has no name. -/
def asmSpeed (sp : BitVec 2) : String :=
  match speedOfCode sp with
  | some .HS => "HS"
  | some .FS => "FS"
  | some .LS => "LS"
  | none => asmBits sp

/-- PEV by name, or as its number where the value has no name. -/
def asmPev (pev : BitVec 3) : String :=
  match portEventOfCode pev with
  | some .CONNECT => "CONNECT"
  | some .DISCONNECT => "DISCONNECT"
  | some .ENABLE => "ENABLE"
  | some .DISABLE => "DISABLE"
  | some .OVERCURRENT => "OVERCURRENT"
  | none => asmBits pev

/-- A mnemonic and its operands, separated by commas (R97). -/
def asmLine (mnemonic : String) (operands : List String) : String :=
  mnemonic ++ " " ++ String.intercalate ", " operands

/-- The assembly text of an instruction (R97). -/
def Instr.asm : Instr → String
  | .config c dir et sp da en mps =>
    asmLine "CONFIG"
      [asmBits c, asmDir dir, asmEpType et, asmSpeed sp, asmBits da, asmBits en, asmBits mps]
  | .configDbuf c en b0 b1 => asmLine "CONFIG_DBUF" [asmBits c, asmBit en, asmBits b0, asmBits b1]
  | .submit c dir et su len buf =>
    asmLine "SUBMIT"
      [asmBits c, asmDir dir, asmEpType et, if su then "SETUP" else "DATA", asmBits len, asmBits buf]
  | .halt c => asmLine "HALT" [asmBits c]
  | .setHub c ha hp => asmLine "SET_HUB" [asmBits c, asmBits ha, asmBits hp]
  | .clearHub c => asmLine "CLEAR_HUB" [asmBits c]
  | .getUrb c => asmLine "GET_URB" [asmBits c]
  | .getCount c => asmLine "GET_COUNT" [asmBits c]
  | .evXfrc c resid => asmLine "EV_XFRC" [asmBits c, asmBits resid]
  | .evAck c => asmLine "EV_ACK" [asmBits c]
  | .evNak c => asmLine "EV_NAK" [asmBits c]
  | .evStall c => asmLine "EV_STALL" [asmBits c]
  | .evXacterr c => asmLine "EV_XACTERR" [asmBits c]
  | .evBblerr c => asmLine "EV_BBLERR" [asmBits c]
  | .evDterr c => asmLine "EV_DTERR" [asmBits c]
  | .evFrmor c => asmLine "EV_FRMOR" [asmBits c]
  | .evNyet c => asmLine "EV_NYET" [asmBits c]
  | .evChh c => asmLine "EV_CHH" [asmBits c]
  | .evPkt c n more => asmLine "EV_PKT" [asmBits c, asmBits n, asmBit more]
  | .evDbufAck c bufsel n => asmLine "EV_DBUF_ACK" [asmBits c, asmBit bufsel, asmBits n]
  | .evPort pev sp => asmLine "EV_PORT" [asmPev pev, asmSpeed sp]
  | .dispatch => "DISPATCH"

/-- The draws of a step as the trailing comment R97 writes them; R97 gives `rx_data` no notation. -/
def drawsAsm (d : Draws) : String :=
  "; hw_ok=" ++ asmBit d.hwOk ++ " frame=" ++ asmBits d.frame

end Sys2Proof
end

