-- ==== Sys2Proof/Safety.lean ====
section
/-! DEFINITION. What the statements call safe and unchanged: the invariants of spec/10_state.md R48 with those that make them inductive, the frames of a step (R73), and which states a DISPATCH finds. -/

namespace Sys2Proof.Machine

/-- The invariants R48 lists for one channel. -/
structure ChanInv (v : Variant) (c : Channel) : Prop where
  /-- `xfer_count <= xfer_len` -/
  count_le_len : c.xferCount.toNat ≤ c.xferLen.toNat
  /-- not (`ssplit = 1` and `csplit = 1`) -/
  not_both_split : ¬ (c.ssplit = true ∧ c.csplit = true)
  /-- `halt_pending = 1` implies `armed = 1` -/
  pending_armed : c.haltPending = true → c.armed = true
  /-- `armed = 1` implies `configured = 1` -/
  armed_configured : c.armed = true → c.configured = true
  /-- `armed = 1` implies `state != HALTED` -/
  armed_not_halted : c.armed = true → c.state ≠ .HALTED
  /-- `do_split = 1` implies `VARIANT = OTG` and `speed != HS` -/
  split_otg : c.doSplit = true → isFs v = false ∧ c.speed ≠ .HS
  /-- `dbuf_en = 1` implies `VARIANT = FS` and `ep_type` bulk or isochronous -/
  dbuf_fs : c.dbufEn = true → v = .FS ∧ (c.epType = .BULK ∨ c.epType = .ISOC)
  /-- `err_cnt <= 3` -/
  err_le : c.errCnt.toNat ≤ 3
  /-- `nyet_cnt <= 3` -/
  nyet_le : c.nyetCnt.toNat ≤ 3

/-- What else every rule preserves, and R48 needs to be inductive: facts other rules state about one channel. -/
structure ChanAux (v : Variant) (c : Channel) : Prop where
  /-- the maximum packet size of a configured channel is not 0 (R24, R111) -/
  mps_pos : c.configured = true → c.mps ≠ 0
  /-- no high-speed endpoint on the FS variant (R111) -/
  fs_not_hs : c.configured = true → isFs v = true → c.speed ≠ .HS
  /-- every mask of a configured channel is open (R39, R316) -/
  masks_open : c.configured = true → c.imsk = 0x3FF
  /-- a pending XFRC has a residual count within the transfer (R150, R161) -/
  resid_le : flagSet c.hcint .XFRC = true → c.resid.toNat ≤ c.xferLen.toNat
  /-- the transfer buffer lies in system memory (R61, R66) -/
  buffer_in_sys : c.xferBuf.toNat + c.xferLen.toNat ≤ 2 ^ 32
  /-- the slots of a double-buffered channel lie in packet memory, even and apart (R66, R116) -/
  slots_in_pma : c.dbufEn = true →
    c.bufAddr0.toNat + c.mps.toNat ≤ 2 ^ 16 ∧ c.bufAddr1.toNat + c.mps.toNat ≤ 2 ^ 16
      ∧ c.bufAddr0.toNat % 2 = 0 ∧ c.bufAddr1.toNat % 2 = 0
      ∧ (c.bufAddr0.toNat + c.mps.toNat ≤ c.bufAddr1.toNat
          ∨ c.bufAddr1.toNat + c.mps.toNat ≤ c.bufAddr0.toNat)
  /-- the double-buffer fields read as 0 on the OTG variant (R37) -/
  otg_no_dbuf : isFs v = false →
    c.dbufEn = false ∧ c.bufAddr0 = 0 ∧ c.bufAddr1 = 0 ∧ c.swBuf = false ∧ c.loaded = 0
  /-- `fill_busy` reads 0 between steps (R37) -/
  not_filling : c.fillBusy = false
  /-- without split routing both split flags stay 0 (R123, R200) -/
  unsplit_flags : c.doSplit = false → c.ssplit = false ∧ c.csplit = false
  /-- a SETUP token is only the OUT token phase of a control transfer (R122) -/
  setup_ctrl_out : c.setup = true → c.epType = .CTRL ∧ c.dir = .OUT

/-- What the environment may put in the queue: a memory write of another agent stays inside the space it writes (R60, R61). -/
def stimulusOk (v : Variant) : Stimulus → Prop
  | .word _ _ => True
  | .hostMode _ => True
  | .memWrite sp a bs => inSpace v sp a bs.length = true
  | .reset => True

/-- The invariant of the block. -/
structure Inv (s : State) : Prop where
  /-- NCH is 1 to 16 (R7) -/
  nch_pos : 1 ≤ s.nch
  nch_le : s.nch ≤ Config.maxChannels
  /-- R48 on every channel -/
  chans : ∀ i, i < s.nch → ChanInv s.variant (s.chan i)
  /-- the auxiliary facts on every channel -/
  aux : ∀ i, i < s.nch → ChanAux s.variant (s.chan i)
  /-- system memory in canonical form -/
  sys_wf : Memory.wf (Config.spaceSize .SYS) s.sys = true
  /-- packet memory in canonical form -/
  pma_wf : Memory.wf (Config.spaceSize .PMA) s.pma = true
  /-- packet memory exists only on the FS variant (R60) -/
  pma_fs : isFs s.variant = false → s.pma = []
  /-- a clear fault register holds its reset values (R49) -/
  fault_clear : s.fault.valid = false → s.fault = FaultReg.reset
  /-- a set fault register names a fault (R263) -/
  fault_named : s.fault.valid = true → s.fault.code ≠ .NONE
  /-- the environment writes only memory that exists -/
  inputs_ok : ∀ x ∈ s.inputs, stimulusOk s.variant x

/-- Both memories in canonical form. -/
def MemoryForm (s : State) : Prop :=
  Memory.wf (Config.spaceSize .SYS) s.sys = true ∧ Memory.wf (Config.spaceSize .PMA) s.pma = true

/-- Every byte of both memories reads as before. -/
def SameMemory (s t : State) : Prop := ∀ sp a, t.byteAt sp a = s.byteAt sp a

/-- Every byte outside the n bytes of `space` from address a reads as before. -/
def SameMemoryOutside (space : Space) (a n : Nat) (s t : State) : Prop :=
  ∀ sp x, (sp ≠ space ∨ x < a ∨ a + n ≤ x) → t.byteAt sp x = s.byteAt sp x

/-- The frame of a step of channel i: everything but channel i's record, the log, the response and memory is unchanged. -/
structure ChannelFrame (i : Nat) (s t : State) : Prop where
  variant : t.variant = s.variant
  nch : t.nch = s.nch
  others : ∀ j, j ≠ i → t.chan j = s.chan j
  port : t.port = s.port
  hostMode : t.hostMode = s.hostMode
  fault : t.fault = s.fault
  draws : t.draws = s.draws
  inputs : t.inputs = s.inputs

/-- The step changed nothing but the response, which is `st` with the given data (R100, R145). -/
def OnlyAnswers (st : Status) (data : BitVec 60) (s t : State) : Prop :=
  t = { s with resp := some (respWord st data) }

/-- The step raised the sticky fault with this code and word and changed nothing else (R262). -/
def OnlyFaults (code : FaultCode) (w : Word) (s t : State) : Prop :=
  t = { s with fault := { valid := true, code := code, word := w } }

/-- Channel i is the only one a DISPATCH would touch: host mode, and no other channel has an unmasked pending flag. -/
def AloneInDispatch (s : State) (i : Nat) : Prop :=
  s.hostMode = true ∧ i < s.nch ∧ ∀ j, j < s.nch → j ≠ i → (s.chan j).hcint &&& (s.chan j).imsk = 0

/-- Flag k of a channel is pending and unmasked, and no flag before it in the order of R241 is. -/
def NextFlag (c : Channel) (k : ChanEvent) : Prop :=
  ∃ before after, [ChanEvent.STALL, .BBLERR, .XACTERR, .DTERR, .FRMOR, .XFRC, .ACK, .NYET, .NAK, .CHH]
      = before ++ k :: after
    ∧ c.hcint.getLsbD (eventBit k) = true ∧ c.imsk.getLsbD (eventBit k) = true
    ∧ ∀ k' ∈ before, ¬ (c.hcint.getLsbD (eventBit k') = true ∧ c.imsk.getLsbD (eventBit k') = true)

/-- The record SUBMIT programs before it asks the transceiver to start, field by field (R120, R121, R123, R124): every field not named keeps its value. -/
def submittedRecord (dir : Dir) (et : EpType) (su : Bool) (len : BitVec 19) (buf : BitVec 32)
    (frame : BitVec 16) (c : Channel) : Channel :=
  let out' : Bool := if su = true ∨ (et = .CTRL ∧ dir = .OUT ∧ len = 0) then true else c.toggleOut
  let in' : Bool :=
    if su = false ∧ et = .CTRL ∧ dir = .IN ∧ (len = 0 ∨ c.doSplit = false) then true else c.toggleIn
  { c with
    dir := dir, epType := et, setup := su
    xferBuf := buf, xferLen := len, xferCount := 0, resched := false
    toggleIn := in', toggleOut := out'
    tgl0 := if dir = .IN then in' else out'
    ssplit := if c.doSplit = true ∧ c.csplit = false then true else c.ssplit
    hcint := 0, state := .IDLE, urb := .IDLE
    oddfrm := if et = .INTR ∨ et = .ISOC then decide (frame.toNat % 2 = 0) else c.oddfrm }

/-- The ARM record of a channel from its fields alone (R25, R34, R102): PID, split phase, odd-frame bit, bytes left, next address. -/
def armOf (i : Nat) (c : Channel) : OutRec :=
  .ARM i
    (if c.setup = true then .SETUP
      else if (if c.dir = .IN then c.toggleIn else c.toggleOut) = true then .DATA1 else .DATA0)
    (if c.csplit = true then .CS else if c.ssplit = true then .SS else .NONE)
    c.oddfrm (c.xferLen.toNat - c.xferCount.toNat) (c.xferBuf.toNat + c.xferCount.toNat)

/-- The number of packets of a transfer of n bytes with maximum packet size m, m not 0 (R157). -/
def packetCount (n m : Nat) : Nat := if n = 0 then 1 else (n + m - 1) / m

/-- The channel whose record an instruction may write: its CH operand, or none for EV_PORT and DISPATCH, which carry no channel (R80, R91, R92). -/
def channelOf : Instr → Option ChanIx
  | .config c _ _ _ _ _ _ => some c
  | .configDbuf c _ _ _ => some c
  | .submit c _ _ _ _ _ => some c
  | .halt c => some c
  | .setHub c _ _ => some c
  | .clearHub c => some c
  | .getUrb c => some c
  | .getCount c => some c
  | .evXfrc c _ => some c
  | .evAck c => some c
  | .evNak c => some c
  | .evStall c => some c
  | .evXacterr c => some c
  | .evBblerr c => some c
  | .evDterr c => some c
  | .evFrmor c => some c
  | .evNyet c => some c
  | .evChh c => some c
  | .evPkt c _ _ => some c
  | .evDbufAck c _ _ => some c
  | .evPort _ _ => none
  | .dispatch => none

/-- The latching event word of each flag but XFRC, whose word also carries a residual count (R85, R88). -/
def eventWord (k : ChanEvent) (c : ChanIx) : Option Instr :=
  match k with
  | .XFRC => none
  | .ACK => some (.evAck c)
  | .NAK => some (.evNak c)
  | .STALL => some (.evStall c)
  | .XACTERR => some (.evXacterr c)
  | .BBLERR => some (.evBblerr c)
  | .DTERR => some (.evDterr c)
  | .FRMOR => some (.evFrmor c)
  | .NYET => some (.evNyet c)
  | .CHH => some (.evChh c)

end Sys2Proof.Machine
end

