-- ==== Sys2Proof/Certificates/Slice0/Obligations.lean ====
section
/-! DEFINITION. The statements for the provers: encodings, the step, invariants, what each command, event and DISPATCH does, its frame and where it completes. Nothing here is proved. -/

open Sys2Proof Sys2Proof.Machine

/-! ## Encoding -/

/-- Decoding the word of a well-formed instruction gives the instruction back, for every operation and every operand value (R80 to R96). -/
def Obligations.DecodeInvertsEncode : Prop :=
  ∀ i : Instr, i.wellFormed = true → decode (encode i) = .ok i

/-- A word that decodes is the word of exactly the instruction it decodes to, which is well formed: no bit of a legal word is dropped (R80, R94, R96). -/
def Obligations.EncodeInvertsDecode : Prop :=
  ∀ (w : Word) (i : Instr), decode w = .ok i → encode i = w ∧ i.wellFormed = true

/-- The encoding example of R99, and at least one word of each of the formats CFG, DBF, CHN, HUB, EVT, PKT, DBA, PRT and DSP, its fields laid out by R80 to R82 and R86 to R92: of CHN each of its four commands, of EVT an event with a residual count and one without. -/
def Obligations.DecodesTheWordsOfTheSpec : Prop :=
  encode (.submit 1 .IN .BULK false 200 0x20000000) = 0x18E000C820000000
    ∧ decode 0x18E000C820000000 = .ok (.submit 1 .IN .BULK false 200 0x20000000)
    ∧ decode 0x0964288400000000 = .ok (.config 2 .IN .BULK 1 5 1 64)
    ∧ decode 0x1040010001400000 = .ok (.configDbuf 0 true 0x0100 0x0140)
    ∧ decode 0x2080000000000000 = .ok (.halt 1)
    ∧ decode 0x3080000000000000 = .ok (.clearHub 1)
    ∧ decode 0x3880000000000000 = .ok (.getUrb 1)
    ∧ decode 0x4080000000000000 = .ok (.getCount 1)
    ∧ decode 0x2903080000000000 = .ok (.setHub 2 3 4)
    ∧ decode 0x808000C900000000 = .ok (.evXfrc 1 201)
    ∧ decode 0xC880000000000000 = .ok (.evChh 1)
    ∧ decode 0xD080004080000000 = .ok (.evPkt 1 64 true)
    ∧ decode 0xD8C0002400000000 = .ok (.evDbufAck 1 true 36)
    ∧ decode 0xE020000000000000 = .ok (.evPort 2 0)
    ∧ decode 0xF800000000000000 = .ok .dispatch

/-- Which words spell no operation, and why (R93, R94, R96): the reserved opcodes; then a bit outside the fields of the operation's format, given here as (OP, first bit, number of bits) from R81 to R92; then the reserved codes of EV_PORT. -/
def Obligations.DecoderRejectsExactlyTheIllegalWords : Prop :=
  ∀ w : Word,
    (decode w = .error .reservedOp
        ↔ opOf w ∈ [0x00, 0x09, 0x0A, 0x0B, 0x0C, 0x0D, 0x0E, 0x0F, 0x1D, 0x1E])
      ∧ (decode w = .error .reservedBits
        ↔ ∃ r ∈ ([(0x01, 0, 28), (0x02, 48, 6), (0x02, 0, 16), (0x04, 0, 55), (0x05, 0, 41),
              (0x06, 0, 55), (0x07, 0, 55), (0x08, 0, 55), (0x10, 51, 4), (0x10, 0, 32),
              (0x11, 0, 55), (0x12, 0, 55), (0x13, 0, 55), (0x14, 0, 55), (0x15, 0, 55),
              (0x16, 0, 55), (0x17, 0, 55), (0x18, 0, 55), (0x19, 0, 55), (0x1A, 51, 4),
              (0x1A, 0, 31), (0x1B, 51, 3), (0x1B, 0, 32), (0x1C, 55, 4), (0x1C, 0, 50),
              (0x1F, 0, 59)] : List (Nat × Nat × Nat)),
            opOf w = r.1 ∧ w.extractLsb' r.2.1 r.2.2 ≠ 0)
      ∧ (decode w = .error .reservedEnum
        ↔ opOf w = 0x1C ∧ w.extractLsb' 55 4 = 0 ∧ w.extractLsb' 0 50 = 0
          ∧ (4 < (w.extractLsb' 52 3).toNat ∨ w.extractLsb' 50 2 = 3))

/-! ## The step -/

/-- A step whose next input is a word that decodes runs the decoded instruction, in the state with that input taken, its draws standing ready and the last response gone (R15, R16, R96). -/
def Obligations.StepRunsTheDecodedInstruction : Prop :=
  ∀ (s : State) (w : Word) (d : Draws) (rest : List Stimulus) (i : Instr),
    s.inputs = .word w d :: rest → s.fault.valid = false → decode w = .ok i →
    step s = exec i { s with inputs := rest, draws := d, resp := none }

/-- A step whose next input is a word that spells no operation raises ILLEGAL_OP: the register records the whole word, and nothing else changes, no response is returned and no output made (R94, R96, R262). -/
def Obligations.StepRaisesIllegalOp : Prop :=
  ∀ (s : State) (w : Word) (d : Draws) (rest : List Stimulus) (e : DecodeError),
    s.inputs = .word w d :: rest → s.fault.valid = false → decode w = .error e →
    step s = .next { s with
      inputs := rest, draws := d, resp := none
      fault := { valid := true, code := .ILLEGAL_OP, word := w } }

/-- However many words follow, a block whose fault register is set consumes them all with no effect: no state change, no output, no response (R262). -/
def Obligations.FaultedBlockDropsEveryWord : Prop :=
  ∀ (words : List (Word × Draws)) (s : State),
    words ≠ [] → s.fault.valid = true →
    s.inputs = words.map (fun p => Stimulus.word p.1 p.2) →
    Host.Core.run Sys2Proof.core words.length s = .next { s with inputs := [], resp := none }

/-- A set fault register changes in no step but a reset (R44, R262, R290). -/
def Obligations.OnlyResetClearsTheFault : Prop :=
  ∀ s t : State, s.fault.valid = true → s.inputs.head? ≠ some .reset →
    step s = .next t → t.fault = s.fault

/-- What reset leaves (R49, R290): every channel field, the port, the fault register and the log at the value of R49's table, no response, and `irq` 0 whatever the mode. -/
def Obligations.ResetLeavesTheResetValues : Prop :=
  ∀ (s : State) (rest : List Stimulus), s.inputs = .reset :: rest →
    ∃ t, step s = .next t
      ∧ (∀ i, i < t.nch → t.chan i =
          { configured := false, dir := .OUT, epType := .CTRL, devAddr := 0, epNum := 0, mps := 0
            speed := .HS, setup := false, toggleIn := false, toggleOut := false, tgl0 := false
            armed := false, haltPending := false, state := .HALTED, urb := .IDLE
            xferBuf := 0, xferLen := 0, xferCount := 0, hubAddr := 0, hubPort := 0
            doSplit := false, ssplit := false, csplit := false, resched := false
            errCnt := 0, nyetCnt := 0, oddfrm := false, dbufEn := false, bufAddr0 := 0
            bufAddr1 := 0, swBuf := false, loaded := 0, fillBusy := false, hcint := 0, imsk := 0
            resid := 0 })
      ∧ t.port = { conn := .DISCONNECTED, speed := .HS, ovrcur := false }
      ∧ t.fault = { valid := false, code := .NONE, word := 0 }
      ∧ t.out = [] ∧ t.resp = none ∧ irq t = false

/-- What reset does not touch, by the model's choice of log 25: the parameters, the mode input, every byte of memory and the rest of the input queue are as before. -/
def Obligations.ResetLeavesTheEnvironmentAlone : Prop :=
  ∀ (s : State) (rest : List Stimulus), s.inputs = .reset :: rest →
    ∃ t, step s = .next t
      ∧ t.nch = s.nch ∧ t.variant = s.variant ∧ t.hostMode = s.hostMode ∧ SameMemory s t
      ∧ t.inputs = rest

/-- With no input waiting the block waits: the step changes nothing (R290). -/
def Obligations.BlockWaitsWithoutInput : Prop :=
  ∀ s : State, s.inputs = [] → step s = .next s

/-! ## Invariants and frames of every step -/

/-- Reset meets the invariant, for both variants, every legal number of channels and either mode (R48, R49). -/
def Obligations.ResetMeetsTheInvariant : Prop :=
  Inv State.reset
    ∧ ∀ (v : Variant) (n : Nat) (m : Bool), 1 ≤ n → n ≤ 16 → Inv (State.resetOf v n m)

/-- Every step keeps the invariant: R48 on every channel, the facts of other rules that R48 needs to be inductive, both memories in canonical form, and a fault register that is clear or names a fault. -/
def Obligations.StepKeepsTheInvariant : Prop :=
  ∀ s t : State, Inv s → step s = .next t → Inv t

/-- From a state that meets the invariant every step answers a next state: no access ever leaves its address space (R61) and no operation is refused. -/
def Obligations.StepNeverStopsUnderTheInvariant : Prop :=
  ∀ s : State, Inv s → ∃ t, step s = .next t

/-- Every step keeps both memories in canonical form, from any state. -/
def Obligations.StepKeepsTheMemoryForm : Prop :=
  ∀ s t : State, MemoryForm s → step s = .next t → MemoryForm t

/-- The variant is fixed and no step changes the number of channels, from any state (R10, R20). -/
def Obligations.StepKeepsTheParameters : Prop :=
  ∀ s t : State, step s = .next t → t.variant = s.variant ∧ t.nch = s.nch

/-- The output log is only appended to, by every step but a reset (R45). -/
def Obligations.OutputLogOnlyGrows : Prop :=
  ∀ s t : State, s.inputs.head? ≠ some .reset → step s = .next t → ∃ rs, t.out = s.out ++ rs

/-- The output log is write-only to the sequencer: what stands in it before an instruction changes nothing the instruction does (R45). -/
def Obligations.OutputLogIsWriteOnly : Prop :=
  ∀ (i : Instr) (s t : State) (o : List OutRec), exec i s = .next t →
    exec i { s with out := o ++ s.out } = .next { t with out := o ++ t.out }

/-- No mask bit of any channel is ever cleared, but by a reset (R39, R316). -/
def Obligations.NoStepNarrowsAMask : Prop :=
  ∀ (s t : State) (i k : Nat), s.inputs.head? ≠ some .reset → step s = .next t →
    (s.chan i).imsk.getLsbD k = true → (t.chan i).imsk.getLsbD k = true

/-- Channel isolation (R73): a command or event for channel c writes no field of any other channel, and a port event writes only the port record and the log. -/
def Obligations.ChannelsAreIsolated : Prop :=
  (∀ (i : Instr) (c : ChanIx) (s t : State), channelOf i = some c → exec i s = .next t →
      ∀ j, j ≠ c.toNat → t.chan j = s.chan j)
    ∧ ∀ (pev : BitVec 3) (sp : BitVec 2) (s t : State),
      (Instr.evPort pev sp).wellFormed = true → exec (.evPort pev sp) s = .next t →
      t = { s with port := t.port, out := t.out }

/-- What a DISPATCH does to a channel depends on that channel's record, the variant and the mode alone (R73, R240): nothing of another channel, of the port, of the log or of memory reaches it. -/
def Obligations.DispatchLeaksNothingBetweenChannels : Prop :=
  ∀ (s s' t t' : State) (i : Nat), i < s.nch → i < s'.nch → s.variant = s'.variant →
    s.hostMode = s'.hostMode → s.chan i = s'.chan i →
    exec .dispatch s = .next t → exec .dispatch s' = .next t' → t.chan i = t'.chan i

/-- No URB record is emitted by any word but DISPATCH and EV_DBUF_ACK; in particular by no command, so that SUBMIT's write of `urb` is not notified (R146). -/
def Obligations.OnlyEventHandlingNotifies : Prop :=
  ∀ (i : Instr) (s t : State), i ≠ .dispatch → (∀ c b n, i ≠ .evDbufAck c b n) →
    exec i s = .next t → ∃ rs, t.out = s.out ++ rs ∧ ∀ j u, OutRec.URB j u ∉ rs

/-! ## Host commands -/

/-- CONFIG on a channel that is not armed, with legal parameters (R110, R111): it completes with OK, the record holds exactly the parameters and cleared transfer, split, double-buffer and event state with all masks open, and nothing else changes. `halt_pending`, which R110 does not write, keeps its value (it is 0 on an unarmed channel, R48; log 18). -/
def Obligations.ConfigConfiguresTheChannel : Prop :=
  ∀ (c : ChanIx) (dir : Dir) (et : EpType) (sp : BitVec 2) (spd : Speed) (da : BitVec 7)
    (en : BitVec 4) (mps : BitVec 11) (s : State),
    c.toNat < s.nch → (s.chan c.toNat).armed = false →
    (sp, spd) ∈ [((0 : BitVec 2), Speed.HS), (1, .FS), (2, .LS)] → mps ≠ 0 →
    ¬ (s.variant = .FS ∧ spd = .HS) →
    ∃ t, exec (.config c dir et sp da en mps) s = .next t
      ∧ ChannelFrame c.toNat s t ∧ SameMemory s t ∧ t.out = s.out
      ∧ t.resp = some (respWord .OK 0)
      ∧ t.chan c.toNat =
        { configured := true, dir := dir, epType := et, devAddr := da, epNum := en, mps := mps
          speed := spd, setup := false, toggleIn := false, toggleOut := false, tgl0 := false
          armed := false, haltPending := (s.chan c.toNat).haltPending, state := .HALTED
          urb := .IDLE, xferBuf := 0, xferLen := 0, xferCount := 0, hubAddr := 0, hubPort := 0
          doSplit := false, ssplit := false, csplit := false, resched := false
          errCnt := 0, nyetCnt := 0, oddfrm := false, dbufEn := false, bufAddr0 := 0
          bufAddr1 := 0, swBuf := false, loaded := 0, fillBusy := false, hcint := 0
          imsk := 0x3FF, resid := 0 }

/-- CONFIG_DBUF on a configured channel that is not armed (R115, R116): with `en = 0` always, with `en = 1` where the slots are legal, it completes with OK, sets the slots and the enable, clears the slot bookkeeping, and changes nothing else. -/
def Obligations.ConfigDbufSetsTheSlots : Prop :=
  ∀ (c : ChanIx) (en : Bool) (b0 b1 : BitVec 16) (s : State),
    c.toNat < s.nch → (s.chan c.toNat).configured = true → (s.chan c.toNat).armed = false →
    (en = true →
      s.variant = .FS
        ∧ ((s.chan c.toNat).epType = .BULK ∨ (s.chan c.toNat).epType = .ISOC)
        ∧ b0.toNat % 2 = 0 ∧ b1.toNat % 2 = 0
        ∧ b0.toNat + (s.chan c.toNat).mps.toNat ≤ 2 ^ 16
        ∧ b1.toNat + (s.chan c.toNat).mps.toNat ≤ 2 ^ 16
        ∧ (b0.toNat + (s.chan c.toNat).mps.toNat ≤ b1.toNat
            ∨ b1.toNat + (s.chan c.toNat).mps.toNat ≤ b0.toNat)) →
    ∃ t, exec (.configDbuf c en b0 b1) s = .next t
      ∧ ChannelFrame c.toNat s t ∧ SameMemory s t ∧ t.out = s.out
      ∧ t.resp = some (respWord .OK 0)
      ∧ t.chan c.toNat =
        { s.chan c.toNat with
          dbufEn := en
          bufAddr0 := if en = true then b0 else 0
          bufAddr1 := if en = true then b1 else 0
          swBuf := false, loaded := 0, fillBusy := false }

/-- SUBMIT of a legal transfer on a configured, unarmed channel without double buffering, the transceiver accepting (R120 to R124): it completes with OK, programs the channel, arms it and emits one ARM with the forced or remembered PID, the split phase and the whole length. -/
def Obligations.SubmitArmsTheTransfer : Prop :=
  ∀ (c : ChanIx) (dir : Dir) (et : EpType) (su : Bool) (len : BitVec 19) (buf : BitVec 32)
    (s : State) (r : Channel),
    c.toNat < s.nch → (s.chan c.toNat).configured = true → (s.chan c.toNat).armed = false →
    (s.chan c.toNat).dbufEn = false →
    (su = true → et = .CTRL ∧ dir = .OUT) →
    (s.variant = .OTG true → buf.toNat % 4 = 0) → buf.toNat + len.toNat ≤ 2 ^ 32 →
    s.draws.hwOk = true →
    r = submittedRecord dir et su len buf s.draws.frame (s.chan c.toNat) →
    ∃ t, exec (.submit c dir et su len buf) s = .next t
      ∧ ChannelFrame c.toNat s t ∧ SameMemory s t
      ∧ t.resp = some (respWord .OK 0)
      ∧ t.chan c.toNat = { r with armed := true }
      ∧ t.out = s.out ++ [armOf c.toNat r]

/-- SUBMIT where the transceiver's start primitive fails (R121, R261): ERR_HW, the transfer fields are written, the channel is left HALTED and not armed, nothing is emitted and no byte is moved. -/
def Obligations.SubmitReportsAStartFailure : Prop :=
  ∀ (c : ChanIx) (dir : Dir) (et : EpType) (su : Bool) (len : BitVec 19) (buf : BitVec 32)
    (s : State),
    c.toNat < s.nch → (s.chan c.toNat).configured = true → (s.chan c.toNat).armed = false →
    ((s.chan c.toNat).dbufEn = true → et = .BULK ∨ et = .ISOC) →
    (su = true → et = .CTRL ∧ dir = .OUT) →
    (s.variant = .OTG true → buf.toNat % 4 = 0) → buf.toNat + len.toNat ≤ 2 ^ 32 →
    s.draws.hwOk = false →
    ∃ t, exec (.submit c dir et su len buf) s = .next t
      ∧ ChannelFrame c.toNat s t ∧ SameMemory s t ∧ t.out = s.out
      ∧ t.resp = some (respWord .ERR_HW 0)
      ∧ t.chan c.toNat =
        { submittedRecord dir et su len buf s.draws.frame (s.chan c.toNat) with state := .HALTED }

/-- SUBMIT of an OUT transfer on a double-buffered channel (R121, R221): before the ARM, slot 0 is filled with the first packet, even of a zero-length transfer, and slot 1 with the next if any is left; every other byte of either memory is unchanged. -/
def Obligations.SubmitPreloadsBothSlotsForOut : Prop :=
  ∀ (c : ChanIx) (et : EpType) (len : BitVec 19) (buf : BitVec 32) (s : State) (r : Channel)
    (a0 a1 m0 m1 : Nat),
    c.toNat < s.nch → s.variant = .FS →
    (s.chan c.toNat).configured = true → (s.chan c.toNat).armed = false →
    (s.chan c.toNat).dbufEn = true → (et = .BULK ∨ et = .ISOC) →
    buf.toNat + len.toNat ≤ 2 ^ 32 → s.draws.hwOk = true →
    a0 = (s.chan c.toNat).bufAddr0.toNat → a1 = (s.chan c.toNat).bufAddr1.toNat →
    a0 + (s.chan c.toNat).mps.toNat ≤ 2 ^ 16 → a1 + (s.chan c.toNat).mps.toNat ≤ 2 ^ 16 →
    (a0 + (s.chan c.toNat).mps.toNat ≤ a1 ∨ a1 + (s.chan c.toNat).mps.toNat ≤ a0) →
    m0 = min (s.chan c.toNat).mps.toNat len.toNat →
    m1 = min (s.chan c.toNat).mps.toNat (len.toNat - m0) →
    r = submittedRecord .OUT et false len buf s.draws.frame (s.chan c.toNat) →
    ∃ t, exec (.submit c .OUT et false len buf) s = .next t
      ∧ ChannelFrame c.toNat s t
      ∧ t.resp = some (respWord .OK 0)
      ∧ t.chan c.toNat =
        { r with swBuf := false, loaded := BitVec.ofNat 19 (m0 + m1), armed := true }
      ∧ t.out = s.out ++ [.LOAD c.toNat false m0]
          ++ (if m0 < len.toNat then [.LOAD c.toNat true m1] else []) ++ [armOf c.toNat r]
      ∧ (∀ k, k < m0 → t.byteAt .PMA (a0 + k) = s.byteAt .SYS (buf.toNat + k))
      ∧ (∀ k, k < m1 → t.byteAt .PMA (a1 + k) = s.byteAt .SYS (buf.toNat + m0 + k))
      ∧ ∀ sp x, (sp = .SYS ∨ ((x < a0 ∨ a0 + m0 ≤ x) ∧ (x < a1 ∨ a1 + m1 ≤ x))) →
          t.byteAt sp x = s.byteAt sp x

/-- SUBMIT of an IN transfer on a double-buffered channel (R121, R221): both slots that the transfer needs are granted before the ARM, and no byte moves. -/
def Obligations.SubmitGrantsBothSlotsForIn : Prop :=
  ∀ (c : ChanIx) (et : EpType) (len : BitVec 19) (buf : BitVec 32) (s : State) (r : Channel)
    (m0 m1 : Nat),
    c.toNat < s.nch → s.variant = .FS →
    (s.chan c.toNat).configured = true → (s.chan c.toNat).armed = false →
    (s.chan c.toNat).dbufEn = true → (et = .BULK ∨ et = .ISOC) →
    buf.toNat + len.toNat ≤ 2 ^ 32 → s.draws.hwOk = true →
    m0 = min (s.chan c.toNat).mps.toNat len.toNat →
    m1 = min (s.chan c.toNat).mps.toNat (len.toNat - m0) →
    r = submittedRecord .IN et false len buf s.draws.frame (s.chan c.toNat) →
    ∃ t, exec (.submit c .IN et false len buf) s = .next t
      ∧ ChannelFrame c.toNat s t ∧ SameMemory s t
      ∧ t.resp = some (respWord .OK 0)
      ∧ t.chan c.toNat =
        { r with swBuf := false, loaded := BitVec.ofNat 19 (m0 + m1), armed := true }
      ∧ t.out = s.out ++ [.RELEASE c.toNat false]
          ++ (if m0 < len.toNat then [.RELEASE c.toNat true] else []) ++ [armOf c.toNat r]

/-- HALT of an armed channel with no halt pending (R131): HALT_REQ is emitted, the channel is at once not armed and HALTED with no split flag, the URB state is not touched, and the response is OK or, where the transceiver's wait fails, ERR_HW. -/
def Obligations.HaltCancelsTheTransfer : Prop :=
  ∀ (c : ChanIx) (s : State),
    c.toNat < s.nch → (s.chan c.toNat).armed = true → (s.chan c.toNat).haltPending = false →
    ∃ t, exec (.halt c) s = .next t
      ∧ ChannelFrame c.toNat s t ∧ SameMemory s t
      ∧ t.resp = some (respWord (if s.draws.hwOk = true then .OK else .ERR_HW) 0)
      ∧ t.chan c.toNat =
        { s.chan c.toNat with armed := false, state := .HALTED, ssplit := false, csplit := false }
      ∧ t.out = s.out ++ [.HALT_REQ c.toNat]

/-- HALT of a channel that is not armed, or whose halt is already pending, answers OK and changes nothing (R131). -/
def Obligations.HaltIsIdempotent : Prop :=
  ∀ (c : ChanIx) (s : State), c.toNat < s.nch →
    ((s.chan c.toNat).armed = false ∨ (s.chan c.toNat).haltPending = true) →
    ∃ t, exec (.halt c) s = .next t ∧ OnlyAnswers .OK 0 s t

/-- A split transfer aborted by HALT restarts from a start-split at its next SUBMIT (R209). HALT clears both split flags; a SUBMIT that succeeds on an unarmed split channel whose `csplit` is 0 emits an ARM of phase SS; and so it is whatever the input queue (log 1) holds between the HALT and that SUBMIT (the EV_CHH and the DISPATCH that R304 puts there, events of the aborted transfer, other commands), as long as the channel is still a split one when the SUBMIT comes. A split channel has no double buffering: `dbuf_en` reads 0 on the OTG variant (R37, R48). -/
def Obligations.HaltRestartsASplitTransfer : Prop :=
  ∀ (c : ChanIx) (dir : Dir) (et : EpType) (su : Bool) (len : BitVec 19) (buf : BitVec 32),
    (∀ s t : State, c.toNat < s.nch → (s.chan c.toNat).armed = true →
      (s.chan c.toNat).haltPending = false → exec (.halt c) s = .next t →
      (t.chan c.toNat).ssplit = false ∧ (t.chan c.toNat).csplit = false)
    ∧ (∀ s u : State, (s.chan c.toNat).armed = false → (s.chan c.toNat).doSplit = true →
      (s.chan c.toNat).csplit = false → (s.chan c.toNat).dbufEn = false →
      exec (.submit c dir et su len buf) s = .next u → u.resp = some (respWord .OK 0) →
      ∃ p o, u.out = s.out ++ [.ARM c.toNat p .SS o len.toNat buf.toNat])
    ∧ ∀ (d d' : Draws) (between : List Stimulus) (s t u : State),
      c.toNat < s.nch → s.fault.valid = false → (s.chan c.toNat).armed = true →
      (s.chan c.toNat).haltPending = false →
      s.inputs = .word (encode (.halt c)) d :: between
        ++ [.word (encode (.submit c dir et su len buf)) d'] →
      (∀ w e, .word w e ∈ between →
        ∀ dir' et' su' len' buf', decode w ≠ .ok (.submit c dir' et' su' len' buf')) →
      Host.Core.run Sys2Proof.core (between.length + 1) s = .next t →
      (t.chan c.toNat).doSplit = true → (t.chan c.toNat).dbufEn = false →
      step t = .next u → u.resp = some (respWord .OK 0) →
      ∃ p o, u.out = t.out ++ [.ARM c.toNat p .SS o len.toNat buf.toNat]

/-- SET_HUB and CLEAR_HUB on a configured, unarmed channel (R140, R141): the routing is stored or removed, split tokens are used only on the OTG variant and only off a high-speed device, the split flags are cleared, and nothing else changes. -/
def Obligations.HubCommandsRouteTheChannel : Prop :=
  ∀ (c : ChanIx) (ha hp : BitVec 7) (s : State),
    c.toNat < s.nch → (s.chan c.toNat).configured = true → (s.chan c.toNat).armed = false →
    (∃ t, exec (.setHub c ha hp) s = .next t
      ∧ ChannelFrame c.toNat s t ∧ SameMemory s t ∧ t.out = s.out
      ∧ t.resp = some (respWord .OK 0)
      ∧ t.chan c.toNat =
        { s.chan c.toNat with
          hubAddr := ha, hubPort := hp
          doSplit := decide (s.variant ≠ .FS ∧ (s.chan c.toNat).speed ≠ .HS)
          ssplit := false, csplit := false, resched := false })
    ∧ ∃ t, exec (.clearHub c) s = .next t
      ∧ ChannelFrame c.toNat s t ∧ SameMemory s t ∧ t.out = s.out
      ∧ t.resp = some (respWord .OK 0)
      ∧ t.chan c.toNat =
        { s.chan c.toNat with
          hubAddr := 0, hubPort := 0, doSplit := false
          ssplit := false, csplit := false, resched := false }

/-- GET_URB and GET_COUNT of an existing channel (R100, R143, R144) answer STATUS 0 with the URB code in bits 2:0 and `resched` in bit 3, or the count in bits 18:0, every other bit 0, and change nothing; of a missing one they answer ERR_RANGE with data 0. -/
def Obligations.QueriesReadTheChannel : Prop :=
  ∀ (c : ChanIx) (s : State),
    (∃ t r, exec (.getUrb c) s = .next t ∧ t = { s with resp := some r }
      ∧ (c.toNat < s.nch →
          r.toNat = (if (s.chan c.toNat).resched = true then 8 else 0)
            + (match (s.chan c.toNat).urb with
              | .IDLE => 0 | .DONE => 1 | .NOTREADY => 2 | .ERROR => 3 | .STALL => 4))
      ∧ (s.nch ≤ c.toNat → r.toNat = 1 * 2 ^ 60))
    ∧ ∃ t r, exec (.getCount c) s = .next t ∧ t = { s with resp := some r }
      ∧ (c.toNat < s.nch → r.toNat = (s.chan c.toNat).xferCount.toNat)
      ∧ (s.nch ≤ c.toNat → r.toNat = 1 * 2 ^ 60)

/-- The synchronous errors (R145, R261): every command checks in the order ERR_RANGE, ERR_NOTCFG, ERR_BUSY, ERR_PARAM, answers the first that fails with data 0, and then changes nothing else. -/
def Obligations.CommandsAnswerTheFirstFailingCheck : Prop :=
  ∀ (c : ChanIx) (s : State),
    (∀ i, (i = .halt c ∨ i = .getUrb c ∨ i = .getCount c) → s.nch ≤ c.toNat →
      ∃ t, exec i s = .next t ∧ OnlyAnswers .ERR_RANGE 0 s t)
    ∧ (∀ i, (i = .clearHub c ∨ (∃ ha hp, i = .setHub c ha hp) ∨ (∃ en b0 b1, i = .configDbuf c en b0 b1)
          ∨ (∃ dir et su len buf, i = .submit c dir et su len buf)) →
      (s.nch ≤ c.toNat → ∃ t, exec i s = .next t ∧ OnlyAnswers .ERR_RANGE 0 s t)
      ∧ (c.toNat < s.nch → (s.chan c.toNat).configured = false →
          ∃ t, exec i s = .next t ∧ OnlyAnswers .ERR_NOTCFG 0 s t)
      ∧ (c.toNat < s.nch → (s.chan c.toNat).configured = true → (s.chan c.toNat).armed = true →
          ∃ t, exec i s = .next t ∧ OnlyAnswers .ERR_BUSY 0 s t))
    ∧ (∀ dir et sp da en mps,
      (s.nch ≤ c.toNat →
          ∃ t, exec (.config c dir et sp da en mps) s = .next t ∧ OnlyAnswers .ERR_RANGE 0 s t)
      ∧ (c.toNat < s.nch → (s.chan c.toNat).armed = true →
          ∃ t, exec (.config c dir et sp da en mps) s = .next t ∧ OnlyAnswers .ERR_BUSY 0 s t)
      ∧ (c.toNat < s.nch → (s.chan c.toNat).armed = false →
          (sp = 3 ∨ mps = 0 ∨ (s.variant = .FS ∧ sp = 0)) →
          ∃ t, exec (.config c dir et sp da en mps) s = .next t ∧ OnlyAnswers .ERR_PARAM 0 s t))
    ∧ (∀ b0 b1, c.toNat < s.nch → (s.chan c.toNat).configured = true →
      (s.chan c.toNat).armed = false →
      (s.variant ≠ .FS ∨ (s.chan c.toNat).epType = .CTRL ∨ (s.chan c.toNat).epType = .INTR
        ∨ b0.toNat % 2 = 1 ∨ b1.toNat % 2 = 1
        ∨ 2 ^ 16 < b0.toNat + (s.chan c.toNat).mps.toNat
        ∨ 2 ^ 16 < b1.toNat + (s.chan c.toNat).mps.toNat
        ∨ (b1.toNat < b0.toNat + (s.chan c.toNat).mps.toNat
            ∧ b0.toNat < b1.toNat + (s.chan c.toNat).mps.toNat)) →
      ∃ t, exec (.configDbuf c true b0 b1) s = .next t ∧ OnlyAnswers .ERR_PARAM 0 s t)
    ∧ ∀ dir et su len buf, c.toNat < s.nch → (s.chan c.toNat).configured = true →
      (s.chan c.toNat).armed = false →
      ((su = true ∧ ¬ (et = .CTRL ∧ dir = .OUT))
        ∨ ((s.chan c.toNat).dbufEn = true ∧ (et = .CTRL ∨ et = .INTR))
        ∨ (s.variant = .OTG true ∧ buf.toNat % 4 ≠ 0) ∨ 2 ^ 32 < buf.toNat + len.toNat) →
      ∃ t, exec (.submit c dir et su len buf) s = .next t ∧ OnlyAnswers .ERR_PARAM 0 s t

/-! ## Event words -/

/-- EV_ACK, EV_NAK, EV_STALL, EV_XACTERR, EV_BBLERR, EV_DTERR, EV_FRMOR, EV_NYET and EV_CHH of an existing channel latch their flag and change nothing else, whatever the channel's state and the mode (R85, R150). -/
def Obligations.EventWordsLatchTheirFlag : Prop :=
  ∀ (k : ChanEvent) (c : ChanIx) (i : Instr) (s : State),
    eventWord k c = some i → c.toNat < s.nch →
    ∃ t, exec i s = .next t
      ∧ ChannelFrame c.toNat s t ∧ SameMemory s t ∧ t.out = s.out ∧ t.resp = s.resp
      ∧ t.chan c.toNat = { s.chan c.toNat with hcint := (t.chan c.toNat).hcint }
      ∧ ∀ b, b < 10 → (t.chan c.toNat).hcint.getLsbD b
          = ((s.chan c.toNat).hcint.getLsbD b || decide (b = eventBit k))

/-- EV_XFRC of an existing channel that is not double-buffered, with a residual count within the transfer, latches flag 0 and the residual count and changes nothing else (R150, R50). -/
def Obligations.XfrcWordLatchesFlagAndResidual : Prop :=
  ∀ (c : ChanIx) (resid : BitVec 19) (s : State),
    c.toNat < s.nch → ¬ (s.variant = .FS ∧ (s.chan c.toNat).dbufEn = true) →
    resid.toNat ≤ (s.chan c.toNat).xferLen.toNat →
    ∃ t, exec (.evXfrc c resid) s = .next t
      ∧ ChannelFrame c.toNat s t ∧ SameMemory s t ∧ t.out = s.out ∧ t.resp = s.resp
      ∧ t.chan c.toNat =
        { s.chan c.toNat with hcint := (t.chan c.toNat).hcint, resid := resid }
      ∧ ∀ b, b < 10 → (t.chan c.toNat).hcint.getLsbD b
          = ((s.chan c.toNat).hcint.getLsbD b || decide (b = 0))

/-- Events that no rule can process raise the sticky fault and change nothing else (R150, R196, R222, R263, R264): CH_RANGE for a missing channel, then UNEXPECTED_EVENT for an event that contradicts the channel's state or the variant. The register holds the event's word. -/
def Obligations.ContradictoryEventsFault : Prop :=
  ∀ (c : ChanIx) (s : State),
    (s.nch ≤ c.toNat → ∀ i,
      ((∃ k, eventWord k c = some i) ∨ (∃ r, i = .evXfrc c r) ∨ (∃ n m, i = .evPkt c n m)
        ∨ ∃ b n, i = .evDbufAck c b n) →
      ∃ t, exec i s = .next t ∧ OnlyFaults .CH_RANGE (encode i) s t)
    ∧ (c.toNat < s.nch → ∀ r,
      ((s.variant = .FS ∧ (s.chan c.toNat).dbufEn = true)
        ∨ (s.chan c.toNat).xferLen.toNat < r.toNat) →
      ∃ t, exec (.evXfrc c r) s = .next t
        ∧ OnlyFaults .UNEXPECTED_EVENT (encode (.evXfrc c r)) s t)
    ∧ (c.toNat < s.nch → ∀ n m,
      (s.variant ≠ .OTG false ∨ (s.chan c.toNat).dir = .OUT ∨ (s.chan c.toNat).armed = false) →
      ∃ t, exec (.evPkt c n m) s = .next t
        ∧ OnlyFaults .UNEXPECTED_EVENT (encode (.evPkt c n m)) s t)
    ∧ (c.toNat < s.nch → ∀ b n,
      (s.variant ≠ .FS ∨ (s.chan c.toNat).dbufEn = false ∨ (s.chan c.toNat).armed = false) →
      ∃ t, exec (.evDbufAck c b n) s = .next t
        ∧ OnlyFaults .UNEXPECTED_EVENT (encode (.evDbufAck c b n)) s t)

/-- EV_PKT of a packet that fits (R196): its bytes stand in memory from `xfer_buf + xfer_count` on in bus order and every other byte is unchanged; the count advances and the retry counters clear; a full packet with more to come flips the toggle (not isochronous) and, unless a halt is pending, re-arms the channel for the rest. The bytes are those of the draw `rx_data`, which R16 and R196 say has n of them; where `rxData` holds fewer, the byte 0 stands for each missing one by the model's choice of log 3 and by no rule. -/
def Obligations.PacketIsStoredAndCounted : Prop :=
  ∀ (c : ChanIx) (n : BitVec 19) (more full : Bool) (s : State) (c0 c1 : Channel) (a : Nat),
    c.toNat < s.nch → s.variant = .OTG false → c0 = s.chan c.toNat →
    c0.dir = .IN → c0.armed = true →
    c0.xferCount.toNat + n.toNat ≤ c0.xferLen.toNat →
    a = c0.xferBuf.toNat + c0.xferCount.toNat → a + n.toNat ≤ 2 ^ 32 →
    full = decide (n.toNat = c0.mps.toNat ∧ more = true) →
    c1 = { c0 with
      xferCount := BitVec.ofNat 19 (c0.xferCount.toNat + n.toNat)
      errCnt := 0, nyetCnt := 0
      toggleIn := if full = true ∧ c0.epType ≠ .ISOC then !c0.toggleIn else c0.toggleIn } →
    ∃ t, exec (.evPkt c n more) s = .next t
      ∧ ChannelFrame c.toNat s t ∧ t.resp = s.resp
      ∧ t.chan c.toNat =
        { c1 with state := if full = true ∧ c0.haltPending = false then .IDLE else c0.state }
      ∧ t.out = s.out ++ (if full = true ∧ c0.haltPending = false then [armOf c.toNat c1] else [])
      ∧ (∀ k, k < n.toNat → t.byteAt .SYS (a + k) = s.draws.rxData.getD k 0)
      ∧ SameMemoryOutside .SYS a n.toNat s t

/-- EV_PKT of a packet that the requested length admits but system memory does not hold stops with the named host-level fault (R61, log 6): the rules never make such an access, since SUBMIT refuses the buffer (R66), so only a state outside the invariant has one. -/
def Obligations.PacketBeyondMemoryStops : Prop :=
  ∀ (c : ChanIx) (n : BitVec 19) (more : Bool) (s : State) (c0 : Channel) (a : Nat),
    c.toNat < s.nch → s.variant = .OTG false → c0 = s.chan c.toNat →
    c0.dir = .IN → c0.armed = true →
    c0.xferCount.toNat + n.toNat ≤ c0.xferLen.toNat →
    a = c0.xferBuf.toNat + c0.xferCount.toNat → 2 ^ 32 < a + n.toNat →
    exec (.evPkt c n more) s = .fault (.noSuchAddress .SYS a) ∧ ¬ Inv s

/-- A packet that passes the requested length, or on a double-buffered channel the remaining length or the slot, is a babble error (R173, R196, R222): its bytes are discarded, the channel classifies BBLERR and requests a halt; with a halt already pending nothing changes. -/
def Obligations.PacketOverflowIsBabble : Prop :=
  ∀ (c : ChanIx) (n : BitVec 19) (i : Instr) (s : State) (c0 : Channel),
    c.toNat < s.nch → c0 = s.chan c.toNat → c0.armed = true →
    ((s.variant = .OTG false ∧ c0.dir = .IN ∧ (∃ more, i = .evPkt c n more)
        ∧ c0.xferLen.toNat < c0.xferCount.toNat + n.toNat)
      ∨ (s.variant = .FS ∧ c0.dbufEn = true ∧ (∃ b, i = .evDbufAck c b n)
        ∧ (c0.xferLen.toNat - c0.xferCount.toNat < n.toNat ∨ c0.mps.toNat < n.toNat))) →
    ∃ t, exec i s = .next t ∧ ChannelFrame c.toNat s t ∧ SameMemory s t ∧ t.resp = s.resp
      ∧ t.chan c.toNat =
        (if c0.haltPending = true then c0 else { c0 with state := .BBLERR, haltPending := true })
      ∧ t.out = s.out ++ (if c0.haltPending = true then [] else [.HALT_REQ c.toNat])

/-- EV_DBUF_ACK of the last packet (R222, R224): the remaining length reaches zero, an IN packet is copied out of its slot, the toggle flips once unless isochronous, the path is disabled and DONE reported, with no halt. -/
def Obligations.DbufAckCompletesTheTransfer : Prop :=
  ∀ (c : ChanIx) (b : Bool) (n : BitVec 19) (s : State) (c0 : Channel) (a p : Nat),
    c.toNat < s.nch → s.variant = .FS → c0 = s.chan c.toNat →
    c0.dbufEn = true → c0.armed = true → c0.haltPending = false →
    c0.xferCount.toNat + n.toNat = c0.xferLen.toNat → n.toNat ≤ c0.mps.toNat →
    a = c0.xferBuf.toNat + c0.xferCount.toNat → a + n.toNat ≤ 2 ^ 32 →
    p = (if b = true then c0.bufAddr1.toNat else c0.bufAddr0.toNat) → p + n.toNat ≤ 2 ^ 16 →
    ∃ t, exec (.evDbufAck c b n) s = .next t
      ∧ ChannelFrame c.toNat s t ∧ t.resp = s.resp
      ∧ t.chan c.toNat =
        { c0 with
          xferCount := c0.xferLen, errCnt := 0, nyetCnt := 0
          toggleIn := if c0.dir = .IN ∧ c0.epType ≠ .ISOC then !c0.toggleIn else c0.toggleIn
          toggleOut := if c0.dir = .OUT ∧ c0.epType ≠ .ISOC then !c0.toggleOut else c0.toggleOut
          state := .XFRC, armed := false, urb := .DONE }
      ∧ t.out = s.out ++ [.PATH_DISABLE c.toNat, .URB c.toNat .DONE]
      ∧ (c0.dir = .OUT → SameMemory s t)
      ∧ (c0.dir = .IN → SameMemoryOutside .SYS a n.toNat s t
          ∧ ∀ k, k < n.toNat → t.byteAt .SYS (a + k) = s.byteAt .PMA (p + k))

/-- EV_DBUF_ACK of an OUT packet with bytes remaining (R222, R223): the slot just completed is refilled with the next part of the transfer, if any has not been given yet, and only that slot's bytes change. -/
def Obligations.DbufAckRefillsTheSlotForOut : Prop :=
  ∀ (c : ChanIx) (b : Bool) (n : BitVec 19) (s : State) (c0 : Channel) (p m : Nat),
    c.toNat < s.nch → s.variant = .FS → c0 = s.chan c.toNat → c0.dir = .OUT →
    c0.dbufEn = true → c0.armed = true → c0.haltPending = false →
    c0.xferCount.toNat + n.toNat < c0.xferLen.toNat → n.toNat ≤ c0.mps.toNat →
    c0.xferBuf.toNat + c0.xferLen.toNat ≤ 2 ^ 32 →
    p = (if b = true then c0.bufAddr1.toNat else c0.bufAddr0.toNat) →
    p + c0.mps.toNat ≤ 2 ^ 16 →
    m = min c0.mps.toNat (c0.xferLen.toNat - c0.loaded.toNat) →
    ∃ t, exec (.evDbufAck c b n) s = .next t
      ∧ ChannelFrame c.toNat s t ∧ t.resp = s.resp
      ∧ t.chan c.toNat =
        { c0 with
          xferCount := BitVec.ofNat 19 (c0.xferCount.toNat + n.toNat), errCnt := 0, nyetCnt := 0
          toggleOut := if c0.epType ≠ .ISOC then !c0.toggleOut else c0.toggleOut
          loaded := BitVec.ofNat 19 (c0.loaded.toNat + m), swBuf := !b, fillBusy := false }
      ∧ t.out = s.out ++ (if c0.loaded.toNat < c0.xferLen.toNat then [.LOAD c.toNat b m] else [])
      ∧ (∀ k, k < m → t.byteAt .PMA (p + k) = s.byteAt .SYS (c0.xferBuf.toNat + c0.loaded.toNat + k))
      ∧ SameMemoryOutside .PMA p m s t

/-- EV_DBUF_ACK of an IN packet with bytes remaining (R222, R223): the slot's bytes go to the transfer buffer and the slot is granted again, if any part of the transfer has not been granted yet. -/
def Obligations.DbufAckDrainsTheSlotForIn : Prop :=
  ∀ (c : ChanIx) (b : Bool) (n : BitVec 19) (s : State) (c0 : Channel) (a p m : Nat),
    c.toNat < s.nch → s.variant = .FS → c0 = s.chan c.toNat → c0.dir = .IN →
    c0.dbufEn = true → c0.armed = true → c0.haltPending = false →
    c0.xferCount.toNat + n.toNat < c0.xferLen.toNat → n.toNat ≤ c0.mps.toNat →
    a = c0.xferBuf.toNat + c0.xferCount.toNat → a + n.toNat ≤ 2 ^ 32 →
    p = (if b = true then c0.bufAddr1.toNat else c0.bufAddr0.toNat) → p + n.toNat ≤ 2 ^ 16 →
    m = min c0.mps.toNat (c0.xferLen.toNat - c0.loaded.toNat) →
    ∃ t, exec (.evDbufAck c b n) s = .next t
      ∧ ChannelFrame c.toNat s t ∧ t.resp = s.resp
      ∧ t.chan c.toNat =
        { c0 with
          xferCount := BitVec.ofNat 19 (c0.xferCount.toNat + n.toNat), errCnt := 0, nyetCnt := 0
          toggleIn := if c0.epType ≠ .ISOC then !c0.toggleIn else c0.toggleIn
          loaded := BitVec.ofNat 19 (c0.loaded.toNat + m), swBuf := !b, fillBusy := false }
      ∧ t.out = s.out ++ (if c0.loaded.toNat < c0.xferLen.toNat then [.RELEASE c.toNat b] else [])
      ∧ (∀ k, k < n.toNat → t.byteAt .SYS (a + k) = s.byteAt .PMA (p + k))
      ∧ SameMemoryOutside .SYS a n.toNat s t

/-- EV_DBUF_ACK while a halt is pending is ignored: the first classification stands (R222). -/
def Obligations.DbufAckUnderAPendingHaltIsIgnored : Prop :=
  ∀ (c : ChanIx) (b : Bool) (n : BitVec 19) (s : State),
    c.toNat < s.nch → s.variant = .FS → (s.chan c.toNat).dbufEn = true →
    (s.chan c.toNat).armed = true → (s.chan c.toNat).haltPending = true →
    exec (.evDbufAck c b n) s = .next s

/-- The port events (R250 to R255), PEV and SPEED by their codes: in host mode each writes the port record and emits its callbacks as its rule says and changes nothing else; in device mode none has an effect. -/
def Obligations.PortEventsFollowTheirRules : Prop :=
  ∀ (sp : BitVec 2) (spd : Speed) (s : State),
    (sp, spd) ∈ [((0 : BitVec 2), Speed.HS), (1, .FS), (2, .LS)] →
    (s.hostMode = false → ∀ pev : BitVec 3, pev.toNat ≤ 4 → exec (.evPort pev sp) s = .next s)
    ∧ (s.hostMode = true →
      exec (.evPort 0 sp) s = .next { s with
          port := { conn := .CONNECTED, speed := spd, ovrcur := s.port.ovrcur }
          out := s.out ++ [.PORTCB .CONNECT] }
      ∧ exec (.evPort 1 sp) s = .next { s with
          port := { conn := .DISCONNECTED, speed := s.port.speed, ovrcur := s.port.ovrcur }
          out := s.out ++ [.FLUSH_FIFOS, .PORTCB .DISCONNECT] }
      ∧ exec (.evPort 2 sp) s = .next { s with
          port := { conn := .RUNNING, speed := spd, ovrcur := s.port.ovrcur }
          out := s.out ++ [.PORTCB .ENABLED] }
      ∧ exec (.evPort 3 sp) s = .next { s with
          port := {
            conn := if s.port.conn = PortConn.DISCONNECTED then .DISCONNECTED else .CONNECTED
            speed := s.port.speed, ovrcur := s.port.ovrcur }
          out := s.out ++ [.PORTCB .DISABLED] }
      ∧ exec (.evPort 4 sp) s = .next { s with
          port := { conn := s.port.conn, speed := s.port.speed, ovrcur := true } })

/-! ## DISPATCH: the whole pass -/

/-- The interrupt line (R46). -/
def Obligations.IrqIsAnUnmaskedPendingFlag : Prop :=
  ∀ s : State, irq s = true
    ↔ s.hostMode = true ∧ ∃ i, i < s.nch ∧ (s.chan i).hcint &&& (s.chan i).imsk ≠ 0

/-- A DISPATCH while `irq = 0`, in particular in device mode, changes nothing (R240, R280). -/
def Obligations.DispatchWithoutIrqChangesNothing : Prop :=
  ∀ s : State, irq s = false → exec .dispatch s = .next s

/-- DISPATCH in host mode always completes (R240, R271): every channel takes its own share, a channel with no unmasked pending flag is not touched, the outputs stand channel by channel in ascending order, and nothing but the channels and the log changes. -/
def Obligations.DispatchServesEveryChannelInOrder : Prop :=
  ∀ s : State, s.hostMode = true →
    ∃ t, exec .dispatch s = .next t
      ∧ t = { s with ch := t.ch, out := t.out } ∧ t.nch = s.nch
      ∧ (∀ i, i < s.nch → t.chan i = (dispatchChan s.variant i (s.chan i)).ch)
      ∧ (∀ i, i < s.nch → (s.chan i).hcint &&& (s.chan i).imsk = 0 → t.chan i = s.chan i)
      ∧ t.out = s.out
          ++ (List.range s.nch).flatMap (fun i => (dispatchChan s.variant i (s.chan i)).out)

/-- One DISPATCH clears, on each channel, exactly the highest flag of R241 that is pending and unmasked; only the handling of an XFRC also clears the ACK and NAK flags (R160, R240, R241). -/
def Obligations.DispatchTakesOneFlagPerChannel : Prop :=
  ∀ (s t : State) (i : Nat) (k : ChanEvent),
    s.hostMode = true → i < s.nch → NextFlag (s.chan i) k → exec .dispatch s = .next t →
    ∀ b, b < 10 → (t.chan i).hcint.getLsbD b =
      (if b = eventBit k then false
        else if k = .XFRC ∧ (s.chan i).armed = true ∧ (s.chan i).haltPending = false
            ∧ (b = eventBit .ACK ∨ b = eventBit .NAK) then false
        else (s.chan i).hcint.getLsbD b)

/-! ## DISPATCH: the classifying events, on the one channel a DISPATCH finds pending -/

/-- A classifying event for a channel that is not armed, or whose halt is pending, is consumed and does nothing (R152, R153). -/
def Obligations.StaleClassificationsAreDiscarded : Prop :=
  ∀ (s : State) (i : Nat) (k : ChanEvent),
    AloneInDispatch s i → NextFlag (s.chan i) k → k ≠ .CHH →
    ((s.chan i).armed = false ∨ (s.chan i).haltPending = true) →
    ∃ t, exec .dispatch s = .next t
      ∧ ChannelFrame i s t ∧ SameMemory s t ∧ t.resp = s.resp ∧ t.out = s.out
      ∧ t.chan i = { s.chan i with hcint := clearFlag (s.chan i).hcint k }

/-- STALL, XACTERR, BBLERR, DTERR, FRMOR and NYET on an armed channel with no halt pending record their protocol state and request a halt, and write nothing else (R170, R172, R173, R174, R175, R177). -/
def Obligations.ErrorsClassifyAndRequestAHalt : Prop :=
  ∀ (s : State) (i : Nat) (k : ChanEvent) (st : ProtoState),
    AloneInDispatch s i → NextFlag (s.chan i) k →
    (k, st) ∈ [(ChanEvent.STALL, ProtoState.STALL), (.XACTERR, .XACTERR), (.BBLERR, .BBLERR),
      (.DTERR, .DATATGLERR), (.FRMOR, .XACTERR), (.NYET, .NYET)] →
    (s.chan i).armed = true → (s.chan i).haltPending = false →
    ∃ t, exec .dispatch s = .next t
      ∧ ChannelFrame i s t ∧ SameMemory s t ∧ t.resp = s.resp
      ∧ t.chan i = { s.chan i with
          hcint := clearFlag (s.chan i).hcint k, state := st, haltPending := true }
      ∧ t.out = s.out ++ [.HALT_REQ i]

/-- XFRC on an armed channel with no halt pending (R157, R160, R161): the count is the residual arithmetic for OUT and DMA, else what the packets counted; the toggle is the one at SUBMIT flipped once per packet, except for isochronous and SETUP; control and bulk request a halt, periodic channels invert the odd-frame bit and report DONE at once. -/
def Obligations.XfrcCompletesTheTransfer : Prop :=
  ∀ (s : State) (i : Nat) (c0 c1 : Channel) (count : BitVec 19) (tg : Bool),
    AloneInDispatch s i → c0 = s.chan i → NextFlag c0 .XFRC →
    c0.armed = true → c0.haltPending = false → c0.mps ≠ 0 →
    c0.resid.toNat ≤ c0.xferLen.toNat →
    count = (if c0.dir = .OUT ∨ s.variant = .OTG true
      then BitVec.ofNat 19 (c0.xferLen.toNat - c0.resid.toNat) else c0.xferCount) →
    tg = (c0.tgl0 ^^ decide (packetCount count.toNat c0.mps.toNat % 2 = 1)) →
    c1 = { c0 with
      errCnt := 0, nyetCnt := 0
      hcint := clearFlag (clearFlag (clearFlag c0.hcint .XFRC) .ACK) .NAK
      xferCount := count
      toggleIn := if c0.dir = .IN ∧ c0.epType ≠ .ISOC ∧ c0.setup = false then tg else c0.toggleIn
      toggleOut :=
        if c0.dir = .OUT ∧ c0.epType ≠ .ISOC ∧ c0.setup = false then tg else c0.toggleOut
      ssplit := false, csplit := false, state := .XFRC } →
    ∃ t, exec .dispatch s = .next t
      ∧ ChannelFrame i s t ∧ SameMemory s t ∧ t.resp = s.resp
      ∧ ((c0.epType = .CTRL ∨ c0.epType = .BULK) →
          t.chan i = { c1 with haltPending := true } ∧ t.out = s.out ++ [.HALT_REQ i])
      ∧ ((c0.epType = .INTR ∨ c0.epType = .ISOC) →
          t.chan i = { c1 with oddfrm := !c0.oddfrm, armed := false, urb := .DONE }
            ∧ t.out = s.out ++ [.ODDFRM i (!c0.oddfrm), .URB i .DONE])

/-- ACK on an armed channel with no halt pending (R165, R201, R204): in the start-split phase of a split transfer, except isochronous OUT, the complete-split is now pending and a halt is requested; otherwise only the retry counters clear. -/
def Obligations.AckAdvancesASplitOrClearsRetries : Prop :=
  ∀ (s : State) (i : Nat) (c0 c1 : Channel),
    AloneInDispatch s i → c0 = s.chan i → NextFlag c0 .ACK →
    c0.armed = true → c0.haltPending = false →
    c1 = { c0 with hcint := clearFlag c0.hcint .ACK, errCnt := 0, nyetCnt := 0 } →
    ∃ t, exec .dispatch s = .next t
      ∧ ChannelFrame i s t ∧ SameMemory s t ∧ t.resp = s.resp
      ∧ (if c0.doSplit = true ∧ c0.ssplit = true ∧ ¬ (c0.epType = .ISOC ∧ c0.dir = .OUT) then
          t.chan i =
              { c1 with ssplit := false, csplit := true, state := .ACK, haltPending := true }
            ∧ t.out = s.out ++ [.HALT_REQ i]
        else t.chan i = c1 ∧ t.out = s.out)

/-- NAK on an armed channel with no halt pending (R167, R203): interrupt channels halt; control and bulk clear `err_cnt` and halt unless DMA hardware retries outside a complete-split; a NAK to a complete-split goes back to the start-split; isochronous channels ignore it. -/
def Obligations.NakHaltsOrIsLeftToHardware : Prop :=
  ∀ (s : State) (i : Nat) (c0 c1 : Channel),
    AloneInDispatch s i → c0 = s.chan i → NextFlag c0 .NAK →
    c0.armed = true → c0.haltPending = false →
    c1 = { c0 with
      hcint := clearFlag c0.hcint .NAK
      errCnt := if c0.epType = .CTRL ∨ c0.epType = .BULK then 0 else c0.errCnt } →
    ∃ t, exec .dispatch s = .next t
      ∧ ChannelFrame i s t ∧ SameMemory s t ∧ t.resp = s.resp
      ∧ (if c0.epType = .INTR
            ∨ ((c0.epType = .CTRL ∨ c0.epType = .BULK)
              ∧ (s.variant ≠ .OTG true ∨ c0.csplit = true)) then
          t.chan i = { c1 with
              state := .NAK, haltPending := true
              ssplit := if c0.csplit = true then true else c0.ssplit, csplit := false }
            ∧ t.out = s.out ++ [.HALT_REQ i]
        else t.chan i = c1 ∧ t.out = s.out)

/-! ## DISPATCH: the halt confirmation -/

/-- A CHH on a quiesced channel writes `state <- HALTED` and nothing else; on an armed channel in state IDLE it also clears `armed` and `halt_pending`; neither changes `urb` or emits anything (R181). -/
def Obligations.UnclassifiedChhIsSilent : Prop :=
  ∀ (s : State) (i : Nat), AloneInDispatch s i → NextFlag (s.chan i) .CHH →
    (((s.chan i).armed = false ∧ (s.chan i).haltPending = false)
      ∨ (s.chan i).armed = true ∧ (s.chan i).state = .IDLE) →
    ∃ t, exec .dispatch s = .next t
      ∧ ChannelFrame i s t ∧ SameMemory s t ∧ t.resp = s.resp ∧ t.out = s.out
      ∧ t.chan i = { s.chan i with
          hcint := clearFlag (s.chan i).hcint .CHH
          armed := false, haltPending := false, state := .HALTED }

/-- A CHH from XFRC reports DONE; from STALL and from BBLERR it is terminal: STALL or ERROR is reported once and the channel is retired, whatever the error count (R180, R184, R186). -/
def Obligations.ChhReportsDoneStallOrBabble : Prop :=
  ∀ (s : State) (i : Nat) (c0 c1 : Channel),
    AloneInDispatch s i → c0 = s.chan i → NextFlag c0 .CHH → c0.armed = true →
    c1 = { c0 with
      hcint := clearFlag c0.hcint .CHH, armed := false, haltPending := false, state := .HALTED } →
    (c0.state = .XFRC ∨ c0.state = .STALL ∨ c0.state = .BBLERR) →
    ∃ t, exec .dispatch s = .next t
      ∧ ChannelFrame i s t ∧ SameMemory s t ∧ t.resp = s.resp
      ∧ (c0.state = .XFRC →
          t.chan i = { c1 with urb := .DONE } ∧ t.out = s.out ++ [.URB i .DONE])
      ∧ (c0.state = .STALL →
          t.chan i =
              { c1 with urb := .STALL, configured := false, ssplit := false, csplit := false }
            ∧ t.out = s.out ++ [.URB i .STALL])
      ∧ (c0.state = .BBLERR →
          t.chan i = { c1 with
              errCnt := BitVec.ofNat 2 (min (c0.errCnt.toNat + 1) 3)
              urb := .ERROR, configured := false, ssplit := false, csplit := false }
            ∧ t.out = s.out ++ [.URB i .ERROR])

/-- The error retry policy (R8, R183): a CHH from XACTERR or DATATGLERR counts the error; up to the second it reports NOTREADY and re-arms control and bulk with the same PID and phase; the third reports ERROR, clears the count and retires the channel. -/
def Obligations.ThirdErrorIsTerminal : Prop :=
  ∀ (s : State) (i : Nat) (c0 c1 : Channel),
    AloneInDispatch s i → c0 = s.chan i → NextFlag c0 .CHH → c0.armed = true →
    (c0.state = .XACTERR ∨ c0.state = .DATATGLERR) →
    c1 = { c0 with
      hcint := clearFlag c0.hcint .CHH, armed := false, haltPending := false, state := .HALTED } →
    ∃ t, exec .dispatch s = .next t
      ∧ ChannelFrame i s t ∧ SameMemory s t ∧ t.resp = s.resp
      ∧ (if 2 ≤ c0.errCnt.toNat then
          t.chan i = { c1 with
              errCnt := 0, urb := .ERROR, configured := false, ssplit := false, csplit := false }
            ∧ t.out = s.out ++ [.URB i .ERROR]
        else if c0.epType = .CTRL ∨ c0.epType = .BULK then
          t.chan i = { c1 with
              errCnt := c0.errCnt + 1, urb := .NOTREADY, armed := true, state := .IDLE }
            ∧ t.out = s.out ++ [.URB i .NOTREADY, armOf i c0]
        else
          t.chan i = { c1 with errCnt := c0.errCnt + 1, urb := .NOTREADY }
            ∧ t.out = s.out ++ [.URB i .NOTREADY])

/-- A CHH from NAK reports NOTREADY and re-arms control and bulk channels (R185). -/
def Obligations.ChhAfterNakRetries : Prop :=
  ∀ (s : State) (i : Nat) (c0 c1 : Channel),
    AloneInDispatch s i → c0 = s.chan i → NextFlag c0 .CHH → c0.armed = true → c0.state = .NAK →
    c1 = { c0 with
      hcint := clearFlag c0.hcint .CHH, armed := false, haltPending := false, state := .HALTED
      urb := .NOTREADY } →
    ∃ t, exec .dispatch s = .next t
      ∧ ChannelFrame i s t ∧ SameMemory s t ∧ t.resp = s.resp
      ∧ (if c0.epType = .CTRL ∨ c0.epType = .BULK then
          t.chan i = { c1 with armed := true, state := .IDLE }
            ∧ t.out = s.out ++ [.URB i .NOTREADY, armOf i c0]
        else t.chan i = c1 ∧ t.out = s.out ++ [.URB i .NOTREADY])

/-- A CHH from ACK reports NOTREADY, programs the complete-split once, opens the ACK and NYET masks and re-arms control and bulk channels in the phase the flags say, which is CS after a split ACK (R182, R208). -/
def Obligations.ChhAfterSplitAckProgramsTheCompleteSplit : Prop :=
  ∀ (s : State) (i : Nat) (c0 c1 : Channel),
    AloneInDispatch s i → c0 = s.chan i → NextFlag c0 .CHH → c0.armed = true → c0.state = .ACK →
    c1 = { c0 with
      hcint := clearFlag c0.hcint .CHH, armed := false, haltPending := false, state := .HALTED
      urb := .NOTREADY, imsk := setFlag (setFlag c0.imsk .ACK) .NYET } →
    ∃ t, exec .dispatch s = .next t
      ∧ ChannelFrame i s t ∧ SameMemory s t ∧ t.resp = s.resp
      ∧ (if c0.epType = .CTRL ∨ c0.epType = .BULK then
          t.chan i = { c1 with armed := true, state := .IDLE }
            ∧ t.out = s.out ++ [.URB i .NOTREADY, .SET_CSPLIT i, armOf i c0]
        else t.chan i = c1 ∧ t.out = s.out ++ [.URB i .NOTREADY, .SET_CSPLIT i])

/-- The NYET retry policy (R8, R187, R205): on an interrupt channel the first and second NYET report NOTREADY and keep the complete-split, the third reports ERROR, clears the split flags and asks for a reschedule without retiring the channel; control and bulk re-issue the complete-split without a bound; isochronous channels only report. -/
def Obligations.ThirdNyetAsksForAReschedule : Prop :=
  ∀ (s : State) (i : Nat) (c0 c1 : Channel),
    AloneInDispatch s i → c0 = s.chan i → NextFlag c0 .CHH → c0.armed = true → c0.state = .NYET →
    c1 = { c0 with
      hcint := clearFlag c0.hcint .CHH, armed := false, haltPending := false, state := .HALTED } →
    ∃ t, exec .dispatch s = .next t
      ∧ ChannelFrame i s t ∧ SameMemory s t ∧ t.resp = s.resp
      ∧ (if c0.epType = .INTR then
          (if 2 ≤ c0.nyetCnt.toNat then
            t.chan i = { c1 with
                nyetCnt := 0, csplit := false, ssplit := false, resched := true, urb := .ERROR }
              ∧ t.out = s.out ++ [.URB i .ERROR]
          else
            t.chan i = { c1 with nyetCnt := c0.nyetCnt + 1, urb := .NOTREADY }
              ∧ t.out = s.out ++ [.URB i .NOTREADY])
        else if c0.epType = .ISOC then
          t.chan i = { c1 with urb := .NOTREADY } ∧ t.out = s.out ++ [.URB i .NOTREADY]
        else
          t.chan i = { c1 with urb := .NOTREADY, armed := true, state := .IDLE }
            ∧ t.out = s.out ++ [.URB i .NOTREADY, armOf i c0])
end

