-- ==== Sys2Proof/Laws/State.lean ====
section
/-! SUPPORT. One lemma per field per named update of State and of a handler's ChanStep, so that no proof unfolds a record update; and reading channel records back. -/

namespace Sys2Proof.Laws

open Sys2Proof.Machine

@[simp] theorem putChan_variant (s : State) (i : Nat) (c : Channel) : (s.putChan i c).variant = s.variant := rfl
@[simp] theorem putChan_ch (s : State) (i : Nat) (c : Channel) : (s.putChan i c).ch = s.ch.set i c := rfl
@[simp] theorem putChan_port (s : State) (i : Nat) (c : Channel) : (s.putChan i c).port = s.port := rfl
@[simp] theorem putChan_hostMode (s : State) (i : Nat) (c : Channel) : (s.putChan i c).hostMode = s.hostMode := rfl
@[simp] theorem putChan_fault (s : State) (i : Nat) (c : Channel) : (s.putChan i c).fault = s.fault := rfl
@[simp] theorem putChan_out (s : State) (i : Nat) (c : Channel) : (s.putChan i c).out = s.out := rfl
@[simp] theorem putChan_sys (s : State) (i : Nat) (c : Channel) : (s.putChan i c).sys = s.sys := rfl
@[simp] theorem putChan_pma (s : State) (i : Nat) (c : Channel) : (s.putChan i c).pma = s.pma := rfl
@[simp] theorem putChan_resp (s : State) (i : Nat) (c : Channel) : (s.putChan i c).resp = s.resp := rfl
@[simp] theorem putChan_draws (s : State) (i : Nat) (c : Channel) : (s.putChan i c).draws = s.draws := rfl
@[simp] theorem putChan_inputs (s : State) (i : Nat) (c : Channel) : (s.putChan i c).inputs = s.inputs := rfl

@[simp] theorem emit_variant (s : State) (rs : List OutRec) : (s.emit rs).variant = s.variant := rfl
@[simp] theorem emit_ch (s : State) (rs : List OutRec) : (s.emit rs).ch = s.ch := rfl
@[simp] theorem emit_port (s : State) (rs : List OutRec) : (s.emit rs).port = s.port := rfl
@[simp] theorem emit_hostMode (s : State) (rs : List OutRec) : (s.emit rs).hostMode = s.hostMode := rfl
@[simp] theorem emit_fault (s : State) (rs : List OutRec) : (s.emit rs).fault = s.fault := rfl
@[simp] theorem emit_out (s : State) (rs : List OutRec) : (s.emit rs).out = s.out ++ rs := rfl
@[simp] theorem emit_sys (s : State) (rs : List OutRec) : (s.emit rs).sys = s.sys := rfl
@[simp] theorem emit_pma (s : State) (rs : List OutRec) : (s.emit rs).pma = s.pma := rfl
@[simp] theorem emit_resp (s : State) (rs : List OutRec) : (s.emit rs).resp = s.resp := rfl
@[simp] theorem emit_draws (s : State) (rs : List OutRec) : (s.emit rs).draws = s.draws := rfl
@[simp] theorem emit_inputs (s : State) (rs : List OutRec) : (s.emit rs).inputs = s.inputs := rfl

@[simp] theorem apply_variant (s : State) (i : Nat) (a : ChanStep) : (s.apply i a).variant = s.variant := rfl
@[simp] theorem apply_ch (s : State) (i : Nat) (a : ChanStep) : (s.apply i a).ch = s.ch.set i a.ch := rfl
@[simp] theorem apply_port (s : State) (i : Nat) (a : ChanStep) : (s.apply i a).port = s.port := rfl
@[simp] theorem apply_hostMode (s : State) (i : Nat) (a : ChanStep) : (s.apply i a).hostMode = s.hostMode := rfl
@[simp] theorem apply_fault (s : State) (i : Nat) (a : ChanStep) : (s.apply i a).fault = s.fault := rfl
@[simp] theorem apply_out (s : State) (i : Nat) (a : ChanStep) : (s.apply i a).out = s.out ++ a.out := rfl
@[simp] theorem apply_sys (s : State) (i : Nat) (a : ChanStep) : (s.apply i a).sys = s.sys := rfl
@[simp] theorem apply_pma (s : State) (i : Nat) (a : ChanStep) : (s.apply i a).pma = s.pma := rfl
@[simp] theorem apply_resp (s : State) (i : Nat) (a : ChanStep) : (s.apply i a).resp = s.resp := rfl
@[simp] theorem apply_draws (s : State) (i : Nat) (a : ChanStep) : (s.apply i a).draws = s.draws := rfl
@[simp] theorem apply_inputs (s : State) (i : Nat) (a : ChanStep) : (s.apply i a).inputs = s.inputs := rfl

@[simp] theorem raiseFault_variant (s : State) (code : FaultCode) (w : Word) : (raiseFault code w s).variant = s.variant := rfl
@[simp] theorem raiseFault_ch (s : State) (code : FaultCode) (w : Word) : (raiseFault code w s).ch = s.ch := rfl
@[simp] theorem raiseFault_port (s : State) (code : FaultCode) (w : Word) : (raiseFault code w s).port = s.port := rfl
@[simp] theorem raiseFault_hostMode (s : State) (code : FaultCode) (w : Word) : (raiseFault code w s).hostMode = s.hostMode := rfl
@[simp] theorem raiseFault_fault (s : State) (code : FaultCode) (w : Word) : (raiseFault code w s).fault = { valid := true, code := code, word := w } := rfl
@[simp] theorem raiseFault_out (s : State) (code : FaultCode) (w : Word) : (raiseFault code w s).out = s.out := rfl
@[simp] theorem raiseFault_sys (s : State) (code : FaultCode) (w : Word) : (raiseFault code w s).sys = s.sys := rfl
@[simp] theorem raiseFault_pma (s : State) (code : FaultCode) (w : Word) : (raiseFault code w s).pma = s.pma := rfl
@[simp] theorem raiseFault_resp (s : State) (code : FaultCode) (w : Word) : (raiseFault code w s).resp = s.resp := rfl
@[simp] theorem raiseFault_draws (s : State) (code : FaultCode) (w : Word) : (raiseFault code w s).draws = s.draws := rfl
@[simp] theorem raiseFault_inputs (s : State) (code : FaultCode) (w : Word) : (raiseFault code w s).inputs = s.inputs := rfl

@[simp] theorem beginWord_variant (s : State) (d : Draws) : (beginWord d s).variant = s.variant := rfl
@[simp] theorem beginWord_ch (s : State) (d : Draws) : (beginWord d s).ch = s.ch := rfl
@[simp] theorem beginWord_port (s : State) (d : Draws) : (beginWord d s).port = s.port := rfl
@[simp] theorem beginWord_hostMode (s : State) (d : Draws) : (beginWord d s).hostMode = s.hostMode := rfl
@[simp] theorem beginWord_fault (s : State) (d : Draws) : (beginWord d s).fault = s.fault := rfl
@[simp] theorem beginWord_out (s : State) (d : Draws) : (beginWord d s).out = s.out := rfl
@[simp] theorem beginWord_sys (s : State) (d : Draws) : (beginWord d s).sys = s.sys := rfl
@[simp] theorem beginWord_pma (s : State) (d : Draws) : (beginWord d s).pma = s.pma := rfl
@[simp] theorem beginWord_resp (s : State) (d : Draws) : (beginWord d s).resp = none := rfl
@[simp] theorem beginWord_draws (s : State) (d : Draws) : (beginWord d s).draws = d := rfl
@[simp] theorem beginWord_inputs (s : State) (d : Draws) : (beginWord d s).inputs = s.inputs := rfl

@[simp] theorem dropWord_variant (s : State) : (dropWord s).variant = s.variant := rfl
@[simp] theorem dropWord_ch (s : State) : (dropWord s).ch = s.ch := rfl
@[simp] theorem dropWord_port (s : State) : (dropWord s).port = s.port := rfl
@[simp] theorem dropWord_hostMode (s : State) : (dropWord s).hostMode = s.hostMode := rfl
@[simp] theorem dropWord_fault (s : State) : (dropWord s).fault = s.fault := rfl
@[simp] theorem dropWord_out (s : State) : (dropWord s).out = s.out := rfl
@[simp] theorem dropWord_sys (s : State) : (dropWord s).sys = s.sys := rfl
@[simp] theorem dropWord_pma (s : State) : (dropWord s).pma = s.pma := rfl
@[simp] theorem dropWord_resp (s : State) : (dropWord s).resp = none := rfl
@[simp] theorem dropWord_draws (s : State) : (dropWord s).draws = s.draws := rfl
@[simp] theorem dropWord_inputs (s : State) : (dropWord s).inputs = s.inputs := rfl

@[simp] theorem hwReset_variant (s : State) : (hwReset s).variant = s.variant := rfl
@[simp] theorem hwReset_ch (s : State) : (hwReset s).ch = s.ch.map fun _ => Channel.reset := rfl
@[simp] theorem hwReset_port (s : State) : (hwReset s).port = Port.reset := rfl
@[simp] theorem hwReset_hostMode (s : State) : (hwReset s).hostMode = s.hostMode := rfl
@[simp] theorem hwReset_fault (s : State) : (hwReset s).fault = FaultReg.reset := rfl
@[simp] theorem hwReset_out (s : State) : (hwReset s).out = [] := rfl
@[simp] theorem hwReset_sys (s : State) : (hwReset s).sys = s.sys := rfl
@[simp] theorem hwReset_pma (s : State) : (hwReset s).pma = s.pma := rfl
@[simp] theorem hwReset_resp (s : State) : (hwReset s).resp = none := rfl
@[simp] theorem hwReset_draws (s : State) : (hwReset s).draws = s.draws := rfl
@[simp] theorem hwReset_inputs (s : State) : (hwReset s).inputs = s.inputs := rfl

@[simp] theorem putMem_SYS_variant (s : State) (m : Memory) : (s.putMem .SYS m).variant = s.variant := rfl
@[simp] theorem putMem_SYS_ch (s : State) (m : Memory) : (s.putMem .SYS m).ch = s.ch := rfl
@[simp] theorem putMem_SYS_port (s : State) (m : Memory) : (s.putMem .SYS m).port = s.port := rfl
@[simp] theorem putMem_SYS_hostMode (s : State) (m : Memory) : (s.putMem .SYS m).hostMode = s.hostMode := rfl
@[simp] theorem putMem_SYS_fault (s : State) (m : Memory) : (s.putMem .SYS m).fault = s.fault := rfl
@[simp] theorem putMem_SYS_out (s : State) (m : Memory) : (s.putMem .SYS m).out = s.out := rfl
@[simp] theorem putMem_SYS_sys (s : State) (m : Memory) : (s.putMem .SYS m).sys = m := rfl
@[simp] theorem putMem_SYS_pma (s : State) (m : Memory) : (s.putMem .SYS m).pma = s.pma := rfl
@[simp] theorem putMem_SYS_resp (s : State) (m : Memory) : (s.putMem .SYS m).resp = s.resp := rfl
@[simp] theorem putMem_SYS_draws (s : State) (m : Memory) : (s.putMem .SYS m).draws = s.draws := rfl
@[simp] theorem putMem_SYS_inputs (s : State) (m : Memory) : (s.putMem .SYS m).inputs = s.inputs := rfl

@[simp] theorem putMem_PMA_variant (s : State) (m : Memory) : (s.putMem .PMA m).variant = s.variant := rfl
@[simp] theorem putMem_PMA_ch (s : State) (m : Memory) : (s.putMem .PMA m).ch = s.ch := rfl
@[simp] theorem putMem_PMA_port (s : State) (m : Memory) : (s.putMem .PMA m).port = s.port := rfl
@[simp] theorem putMem_PMA_hostMode (s : State) (m : Memory) : (s.putMem .PMA m).hostMode = s.hostMode := rfl
@[simp] theorem putMem_PMA_fault (s : State) (m : Memory) : (s.putMem .PMA m).fault = s.fault := rfl
@[simp] theorem putMem_PMA_out (s : State) (m : Memory) : (s.putMem .PMA m).out = s.out := rfl
@[simp] theorem putMem_PMA_sys (s : State) (m : Memory) : (s.putMem .PMA m).sys = s.sys := rfl
@[simp] theorem putMem_PMA_pma (s : State) (m : Memory) : (s.putMem .PMA m).pma = m := rfl
@[simp] theorem putMem_PMA_resp (s : State) (m : Memory) : (s.putMem .PMA m).resp = s.resp := rfl
@[simp] theorem putMem_PMA_draws (s : State) (m : Memory) : (s.putMem .PMA m).draws = s.draws := rfl
@[simp] theorem putMem_PMA_inputs (s : State) (m : Memory) : (s.putMem .PMA m).inputs = s.inputs := rfl

@[simp] theorem putMem_variant (s : State) (sp : Space) (m : Memory) : (s.putMem sp m).variant = s.variant := by
  cases sp <;> rfl
@[simp] theorem putMem_ch (s : State) (sp : Space) (m : Memory) : (s.putMem sp m).ch = s.ch := by
  cases sp <;> rfl
@[simp] theorem putMem_port (s : State) (sp : Space) (m : Memory) : (s.putMem sp m).port = s.port := by
  cases sp <;> rfl
@[simp] theorem putMem_hostMode (s : State) (sp : Space) (m : Memory) : (s.putMem sp m).hostMode = s.hostMode := by
  cases sp <;> rfl
@[simp] theorem putMem_fault (s : State) (sp : Space) (m : Memory) : (s.putMem sp m).fault = s.fault := by
  cases sp <;> rfl
@[simp] theorem putMem_out (s : State) (sp : Space) (m : Memory) : (s.putMem sp m).out = s.out := by
  cases sp <;> rfl
@[simp] theorem putMem_resp (s : State) (sp : Space) (m : Memory) : (s.putMem sp m).resp = s.resp := by
  cases sp <;> rfl
@[simp] theorem putMem_draws (s : State) (sp : Space) (m : Memory) : (s.putMem sp m).draws = s.draws := by
  cases sp <;> rfl
@[simp] theorem putMem_inputs (s : State) (sp : Space) (m : Memory) : (s.putMem sp m).inputs = s.inputs := by
  cases sp <;> rfl

@[simp] theorem putMem_mem_self (s : State) (sp : Space) (m : Memory) : (s.putMem sp m).mem sp = m := by
  cases sp <;> rfl

theorem putMem_mem_ne (s : State) {sp sp' : Space} (m : Memory) (h : sp' ≠ sp) :
    (s.putMem sp m).mem sp' = s.mem sp' := by
  cases sp <;> cases sp' <;> first | rfl | exact absurd rfl h

@[simp] theorem putChan_mem (s : State) (i : Nat) (c : Channel) (sp : Space) :
    (s.putChan i c).mem sp = s.mem sp := by cases sp <;> rfl

@[simp] theorem emit_mem (s : State) (rs : List OutRec) (sp : Space) :
    (s.emit rs).mem sp = s.mem sp := by cases sp <;> rfl

@[simp] theorem apply_mem (s : State) (i : Nat) (a : ChanStep) (sp : Space) :
    (s.apply i a).mem sp = s.mem sp := by cases sp <;> rfl

@[simp] theorem putChan_byteAt (s : State) (i : Nat) (c : Channel) (sp : Space) (a : Nat) :
    (s.putChan i c).byteAt sp a = s.byteAt sp a := by simp [State.byteAt]

@[simp] theorem emit_byteAt (s : State) (rs : List OutRec) (sp : Space) (a : Nat) :
    (s.emit rs).byteAt sp a = s.byteAt sp a := by simp [State.byteAt]

@[simp] theorem apply_byteAt (s : State) (i : Nat) (a : ChanStep) (sp : Space) (x : Nat) :
    (s.apply i a).byteAt sp x = s.byteAt sp x := by simp [State.byteAt]

@[simp] theorem raiseFault_byteAt (s : State) (code : FaultCode) (w : Word) (sp : Space) (a : Nat) :
    (raiseFault code w s).byteAt sp a = s.byteAt sp a := by cases sp <;> rfl

@[simp] theorem putChan_nch (s : State) (i : Nat) (c : Channel) : (s.putChan i c).nch = s.nch := by
  simp [State.nch]

@[simp] theorem emit_nch (s : State) (rs : List OutRec) : (s.emit rs).nch = s.nch := rfl

@[simp] theorem apply_nch (s : State) (i : Nat) (a : ChanStep) : (s.apply i a).nch = s.nch := by
  simp [State.nch]

@[simp] theorem raiseFault_nch (s : State) (code : FaultCode) (w : Word) :
    (raiseFault code w s).nch = s.nch := rfl

@[simp] theorem beginWord_nch (s : State) (d : Draws) : (beginWord d s).nch = s.nch := rfl

@[simp] theorem dropWord_nch (s : State) : (dropWord s).nch = s.nch := rfl

@[simp] theorem hwReset_nch (s : State) : (hwReset s).nch = s.nch := by simp [State.nch]

@[simp] theorem putMem_nch (s : State) (sp : Space) (m : Memory) : (s.putMem sp m).nch = s.nch := by
  simp [State.nch]

/-- Writing channel i and reading it back. -/
theorem chan_putChan_self {s : State} {i : Nat} (c : Channel) (h : i < s.nch) :
    (s.putChan i c).chan i = c := by
  have h' : i < s.ch.length := h
  simp [State.chan, State.putChan, List.getD_eq_getElem?_getD, h']

/-- Writing channel i leaves every other channel alone (R73). -/
theorem chan_putChan_ne (s : State) {i j : Nat} (c : Channel) (h : j ≠ i) :
    (s.putChan i c).chan j = s.chan j := by
  simp [State.chan, State.putChan, List.getD_eq_getElem?_getD, List.getElem?_set_ne (Ne.symm h)]

theorem chan_apply_self {s : State} {i : Nat} (a : ChanStep) (h : i < s.nch) :
    (s.apply i a).chan i = a.ch := chan_putChan_self a.ch h

theorem chan_apply_ne (s : State) {i j : Nat} (a : ChanStep) (h : j ≠ i) :
    (s.apply i a).chan j = s.chan j := chan_putChan_ne s a.ch h

@[simp] theorem emit_chan (s : State) (rs : List OutRec) (i : Nat) : (s.emit rs).chan i = s.chan i := rfl

@[simp] theorem raiseFault_chan (s : State) (code : FaultCode) (w : Word) (i : Nat) :
    (raiseFault code w s).chan i = s.chan i := rfl

@[simp] theorem beginWord_chan (s : State) (d : Draws) (i : Nat) :
    (beginWord d s).chan i = s.chan i := rfl

@[simp] theorem dropWord_chan (s : State) (i : Nat) : (dropWord s).chan i = s.chan i := rfl

@[simp] theorem putMem_chan (s : State) (sp : Space) (m : Memory) (i : Nat) :
    (s.putMem sp m).chan i = s.chan i := by cases sp <;> rfl

/-- The record of a channel below NCH is one of the stored ones. -/
theorem chan_mem {s : State} {i : Nat} (h : i < s.nch) : s.chan i ∈ s.ch := by
  have h' : i < s.ch.length := h
  simp [State.chan, List.getD_eq_getElem?_getD, h']

/-- Writing back what a channel holds changes nothing. -/
theorem putChan_chan {s : State} {i : Nat} (h : i < s.nch) : s.putChan i (s.chan i) = s := by
  have h' : i < s.ch.length := h
  simp [State.chan, State.putChan, List.getD_eq_getElem?_getD, h']

@[simp] theorem start_ch (c : Channel) : (ChanStep.start c).ch = c := rfl
@[simp] theorem start_out (c : Channel) : (ChanStep.start c).out = [] := rfl
@[simp] theorem upd_ch (a : ChanStep) (f : Channel → Channel) : (a.upd f).ch = f a.ch := rfl
@[simp] theorem upd_out (a : ChanStep) (f : Channel → Channel) : (a.upd f).out = a.out := rfl
@[simp] theorem stepEmit_ch (a : ChanStep) (r : OutRec) : (a.emit r).ch = a.ch := rfl
@[simp] theorem stepEmit_out (a : ChanStep) (r : OutRec) : (a.emit r).out = a.out ++ [r] := rfl

@[simp] theorem requestHalt_ch (i : Nat) (a : ChanStep) :
    (requestHalt i a).ch = { a.ch with haltPending := true } := rfl
@[simp] theorem requestHalt_out (i : Nat) (a : ChanStep) :
    (requestHalt i a).out = a.out ++ [.HALT_REQ i] := rfl
@[simp] theorem rearm_ch (i : Nat) (a : ChanStep) :
    (rearm i a).ch = { a.ch with armed := true, state := .IDLE } := rfl
@[simp] theorem rearm_out (i : Nat) (a : ChanStep) :
    (rearm i a).out = a.out ++ [armRecord i a.ch] := rfl
@[simp] theorem report_ch (i : Nat) (u : UrbState) (a : ChanStep) :
    (report i u a).ch = { a.ch with urb := u } := rfl
@[simp] theorem report_out (i : Nat) (u : UrbState) (a : ChanStep) :
    (report i u a).out = a.out ++ [.URB i u] := rfl
@[simp] theorem retire_ch (a : ChanStep) :
    (retire a).ch = { a.ch with configured := false, ssplit := false, csplit := false } := rfl
@[simp] theorem retire_out (a : ChanStep) : (retire a).out = a.out := rfl
@[simp] theorem classify_ch (i : Nat) (st : ProtoState) (a : ChanStep) :
    (classify i st a).ch = { a.ch with state := st, haltPending := true } := rfl
@[simp] theorem classify_out (i : Nat) (st : ProtoState) (a : ChanStep) :
    (classify i st a).out = a.out ++ [.HALT_REQ i] := rfl

/-- The re-arm of control and bulk channels only: its two cases. -/
theorem rearmCtrlBulk_cases (i : Nat) (a : ChanStep) :
    (isCtrlBulk a.ch.epType = true ∧ rearmCtrlBulk i a = rearm i a)
      ∨ (isCtrlBulk a.ch.epType = false ∧ rearmCtrlBulk i a = a) := by
  unfold rearmCtrlBulk
  cases h : isCtrlBulk a.ch.epType <;> simp

end Sys2Proof.Laws
end

