-- ==== Sys2Proof/Laws/Demux.lean ====
section
/-! SUPPORT. What one pass of the demultiplexer does to each channel and to the log (R240). -/

namespace Sys2Proof.Laws

open Sys2Proof.Machine

@[simp] theorem demux_length (v : Variant) (i : Nat) (cs : List Channel) :
    (demux v i cs).1.length = cs.length := by
  induction cs generalizing i with
  | nil => rfl
  | cons c cs ih => simp [demux, ih]

/-- Each channel is dispatched on its own record. -/
theorem demux_getElem? (v : Variant) (i j : Nat) (cs : List Channel) :
    (demux v i cs).1[j]? = (cs[j]?).map fun c => (dispatchChan v (i + j) c).ch := by
  induction cs generalizing i j with
  | nil => simp [demux]
  | cons c cs ih =>
    cases j with
    | zero => simp [demux]
    | succ j => simp [demux, ih, Nat.add_comm, Nat.add_left_comm]

/-- The outputs stand channel by channel in ascending order. -/
theorem demux_out (v : Variant) (i : Nat) (cs : List Channel) :
    (demux v i cs).2
      = (List.range cs.length).flatMap fun j =>
          (dispatchChan v (i + j) (cs.getD j Channel.reset)).out := by
  induction cs generalizing i with
  | nil => rfl
  | cons c cs ih =>
    simp only [demux, ih, List.length_cons, List.range_succ_eq_map, List.flatMap_cons,
      List.flatMap_map]
    simp [Nat.add_assoc, Nat.add_comm 1]

/-- A channel with no unmasked pending flag is not touched (R240). -/
theorem dispatchChan_idle {v : Variant} {i : Nat} {c : Channel} (h : firstFlag c = none) :
    dispatchChan v i c = ChanStep.start c := by simp [dispatchChan, h]

/-- A channel with one has its first flag cleared and handled (R240, R241). -/
theorem dispatchChan_flag {v : Variant} {i : Nat} {c : Channel} {k : ChanEvent}
    (h : firstFlag c = some k) : dispatchChan v i c = handle v i k (dropFlag k c) := by
  simp [dispatchChan, h]

/-- DISPATCH in host mode. -/
theorem execDispatch_host {s : State} (h : s.hostMode = true) :
    execDispatch s = .next { s with
      ch := (demux s.variant 0 s.ch).1
      out := s.out ++ (demux s.variant 0 s.ch).2 } := by simp [execDispatch, h]

/-- DISPATCH in device mode (R240, R280). -/
theorem execDispatch_device {s : State} (h : s.hostMode = false) : execDispatch s = .next s := by
  simp [execDispatch, h]

/-- A classifying event is stale on an unarmed channel and discarded while a halt is pending (R152, R153). -/
theorem handle_discarded {v : Variant} {i : Nat} {k : ChanEvent} {c : Channel} (hk : k ≠ .CHH)
    (h : c.armed = false ∨ c.haltPending = true) : handle v i k c = ChanStep.start c := by
  cases k <;> first | exact absurd rfl hk | simp [handle, h]

end Sys2Proof.Laws
end

