-- ==== Sys2Proof/Laws/Dispatch.lean ====
section
/-! SUPPORT. The flag a DISPATCH takes (R241), and what a DISPATCH does where one channel alone is pending (R240). -/

namespace Sys2Proof.Laws

open Sys2Proof.Machine

/-- An unmasked pending flag is a pending flag whose mask is open (R38, R39). -/
theorem flagSet_unmasked (c : Channel) (k : ChanEvent) :
    flagSet (unmasked c) k = (c.hcint.getLsbD (eventBit k) && c.imsk.getLsbD (eventBit k)) := by
  simp [flagSet, unmasked, BitVec.getLsbD_and]

/-- The flag DISPATCH takes is the first pending unmasked one in the order of R241. -/
theorem firstFlag_of_next {c : Channel} {k : ChanEvent} (h : NextFlag c k) : firstFlag c = some k := by
  obtain ⟨before, after, hl, h1, h2, h3⟩ := h
  unfold firstFlag
  rw [show flagPriority = before ++ k :: after from hl, List.find?_append]
  have hb : before.find? (flagSet (unmasked c)) = none := by
    rw [List.find?_eq_none]
    intro x hx
    rw [flagSet_unmasked]
    have := h3 x hx
    simpa [Bool.and_eq_true] using this
  simp only [hb, Option.none_or]
  rw [List.find?_cons_of_pos]
  rw [flagSet_unmasked, h1, h2]; rfl

/-- No flag is taken exactly where none is pending and unmasked. -/
theorem firstFlag_none_iff (c : Channel) : firstFlag c = none ↔ unmasked c = 0 := by
  unfold firstFlag
  rw [List.find?_eq_none]
  constructor
  · intro h
    apply BitVec.eq_of_getLsbD_eq
    intro j hj
    have key : ∀ k : ChanEvent, (unmasked c).getLsbD (eventBit k) = false := by
      intro k
      have := h k (by cases k <;> decide)
      simpa [flagSet] using this
    have : ∃ k, eventBit k = j := by
      interval_cases j
      exacts [⟨.XFRC, rfl⟩, ⟨.ACK, rfl⟩, ⟨.NAK, rfl⟩, ⟨.STALL, rfl⟩, ⟨.XACTERR, rfl⟩, ⟨.BBLERR, rfl⟩, ⟨.DTERR, rfl⟩, ⟨.FRMOR, rfl⟩, ⟨.NYET, rfl⟩, ⟨.CHH, rfl⟩]
    obtain ⟨k, rfl⟩ := this
    rw [key k]; simp
  · intro h k _
    rw [flagSet, h]; simp

/-- A DISPATCH that finds one channel pending applies that channel's handler and nothing else (R240). -/
theorem dispatch_alone {s : State} {i : Nat} {k : ChanEvent} (h : AloneInDispatch s i)
    (hk : NextFlag (s.chan i) k) :
    exec .dispatch s = .next (s.apply i (handle s.variant i k (dropFlag k (s.chan i)))) := by
  obtain ⟨hm, hi, hothers⟩ := h
  rw [show exec .dispatch s = execDispatch s from rfl, execDispatch_host hm]
  have hf := dispatchChan_flag (v := s.variant) (i := i) (firstFlag_of_next hk)
  have hidle : ∀ j, j < s.nch → j ≠ i → dispatchChan s.variant j (s.chan j) = ChanStep.start (s.chan j) := by
    intro j hj hji
    exact dispatchChan_idle ((firstFlag_none_iff _).2 (hothers j hj hji))
  have hget : ∀ j, j < s.nch → s.ch[j]? = some (s.chan j) := by
    intro j hj
    have hj' : j < s.ch.length := hj
    simp [State.chan, List.getD_eq_getElem?_getD, hj']
  have hch : (demux s.variant 0 s.ch).1 = s.ch.set i (handle s.variant i k (dropFlag k (s.chan i))).ch := by
    apply List.ext_getElem?
    intro j
    rw [demux_getElem?]
    by_cases hj : j < s.nch
    · by_cases hji : j = i
      · subst hji
        have hj' : j < s.ch.length := hj
        rw [hget j hj, List.getElem?_set_self hj']; simp [hf]
      · rw [hget j hj, List.getElem?_set_ne (Ne.symm hji), hget j hj]; simp [hidle j hj hji]
    · have hj' : s.ch.length ≤ j := Nat.not_lt.1 hj
      simp [hj']
  have hout : (demux s.variant 0 s.ch).2 = (handle s.variant i k (dropFlag k (s.chan i))).out := by
    rw [demux_out]
    have h1 : ∀ n, n ≤ s.nch → (List.range n).flatMap (fun j => (dispatchChan s.variant (0 + j) (s.ch.getD j Channel.reset)).out)
        = if i < n then (handle s.variant i k (dropFlag k (s.chan i))).out else [] := by
      intro n
      induction n with
      | zero => simp
      | succ n ih =>
        intro hn
        rw [List.range_succ, List.flatMap_append, ih (by omega)]
        have e : s.ch.getD n Channel.reset = s.chan n := rfl
        simp only [List.flatMap_cons, List.flatMap_nil, List.append_nil, e, Nat.zero_add]
        by_cases hni : n = i
        · subst hni; simp [hf]
        · rw [hidle n (by omega) hni]
          by_cases hlt : i < n
          · rw [if_pos hlt, if_pos (by omega)]; simp
          · rw [if_neg hlt, if_neg (by omega)]; simp
    rw [show s.ch.length = s.nch from rfl, h1 _ (Nat.le_refl _), if_pos hi]
  rw [hch, hout]; rfl

end Sys2Proof.Laws
end

