-- ==== Sys2Proof/Laws/Memory.lean ====
section
/-! SUPPORT. The laws of memory: reading after writing, writing elsewhere, the canonical form, and one lemma for each memory primitive that says once everything it can do. -/

namespace Sys2Proof.Laws

open Sys2Proof.Machine

/-- A byte written reads back, and every other byte is as before. -/
theorem memLookup_memInsert (a : Nat) (b : Byte) (m : Memory) (x : Nat) :
    memLookup (memInsert a b m) x = if a = x then some b else memLookup m x := by
  induction m with
  | nil => simp [memInsert, memLookup]
  | cons p m ih =>
    obtain ⟨y, v⟩ := p
    simp only [memInsert]
    split
    · simp [memLookup]
    · split
      · subst_vars
        simp only [memLookup]
        split <;> rfl
      · simp only [memLookup, ih]
        by_cases h1 : y = x <;> by_cases h2 : a = x <;> simp_all

/-- The bytes stored are the ones read back. -/
theorem memLookup_memStore_inside (bs : List Byte) (a k : Nat) (m : Memory) (h : k < bs.length) :
    memLookup (memStore a bs m) (a + k) = some (bs[k]) := by
  induction bs generalizing a k m with
  | nil => simp at h
  | cons b bs ih =>
    simp only [memStore]
    cases k with
    | zero =>
      have hne : ∀ (cs : List Byte) (m : Memory) (x : Nat),
          memLookup (memStore (a + 1 + x) cs m) a = memLookup m a := by
        intro cs
        induction cs with
        | nil => intro m x; rfl
        | cons c cs ihc =>
          intro m x
          have := ihc (memInsert (a + 1 + x) c m) (x + 1)
          simp only [memStore]
          rw [show a + 1 + x + 1 = a + 1 + (x + 1) by omega, this, memLookup_memInsert]
          simp; omega
      have := hne bs (memInsert a b m) 0
      simpa [memLookup_memInsert] using this
    | succ k =>
      have := ih (a + 1) k (memInsert a b m) (by simpa using h)
      rw [show a + (k + 1) = a + 1 + k by omega, this]
      simp

/-- Bytes outside the stored range are as before. -/
theorem memLookup_memStore_outside (bs : List Byte) (a x : Nat) (m : Memory)
    (h : x < a ∨ a + bs.length ≤ x) : memLookup (memStore a bs m) x = memLookup m x := by
  induction bs generalizing a m with
  | nil => rfl
  | cons b bs ih =>
    simp only [List.length_cons] at h
    simp only [memStore]
    rw [ih (a + 1) (memInsert a b m) (by omega), memLookup_memInsert, if_neg (by omega)]

/-- Every cell of a well-formed memory after the first lies above the first. -/
theorem wf_tail {size a : Nat} {b : Byte} {m : Memory} (h : Memory.wf size ((a, b) :: m) = true) :
    Memory.wf size m = true := by
  cases m with
  | nil => rfl
  | cons p m => obtain ⟨x, y⟩ := p; simp [Memory.wf] at h; exact h.2

/-- Prepending a cell below a well-formed memory. -/
theorem wf_cons {size a : Nat} {b : Byte} {m : Memory} (ha : a < size)
    (hm : Memory.wf size m = true) (hlt : ∀ x y m', m = (x, y) :: m' → a < x) :
    Memory.wf size ((a, b) :: m) = true := by
  cases m with
  | nil => simp [Memory.wf, ha]
  | cons p m => obtain ⟨x, y⟩ := p; simp [Memory.wf, hm, hlt x y m rfl]

theorem wf_head_lt {size a : Nat} {b : Byte} {m : Memory}
    (h : Memory.wf size ((a, b) :: m) = true) : a < size := by
  induction m generalizing a b with
  | nil => simpa [Memory.wf] using h
  | cons p m ih =>
    obtain ⟨x, y⟩ := p
    simp [Memory.wf] at h
    have := ih h.2
    omega

/-- The address at the head of a memory after one byte is written. -/
theorem memInsert_head (a : Nat) (b : Byte) (m : Memory) {x : Nat} {y : Byte} {m' : Memory}
    (h : memInsert a b m = (x, y) :: m') : x = a ∨ ∃ y₀ m₀, m = (x, y₀) :: m₀ := by
  cases m with
  | nil => simp [memInsert] at h; exact .inl h.1.1.symm
  | cons p m =>
    obtain ⟨u, v⟩ := p
    simp only [memInsert] at h
    split at h
    · simp at h; exact .inl h.1.1.symm
    · split at h
      · simp at h; exact .inl h.1.1.symm
      · simp at h; exact .inr ⟨v, m, by simp [h.1.1]⟩

/-- Writing one byte keeps the canonical form. -/
theorem wf_memInsert {size a : Nat} (b : Byte) {m : Memory} (ha : a < size)
    (h : Memory.wf size m = true) : Memory.wf size (memInsert a b m) = true := by
  induction m with
  | nil => simp [memInsert, Memory.wf, ha]
  | cons p m ih =>
    obtain ⟨x, y⟩ := p
    simp only [memInsert]
    split
    · exact wf_cons ha h (by intro x' y' m' he; simp at he; omega)
    · split
      · subst_vars
        cases m with
        | nil => simpa [Memory.wf] using h
        | cons q m => obtain ⟨u, v⟩ := q; simpa [Memory.wf] using h
      · refine wf_cons (wf_head_lt h) (ih (wf_tail h)) ?_
        intro u v m' he
        rcases memInsert_head a b m he with rfl | ⟨v₀, m₀, rfl⟩
        · omega
        · simp [Memory.wf] at h; exact h.1

/-- Writing bytes inside the space keeps the canonical form. -/
theorem wf_memStore {size : Nat} (bs : List Byte) {a : Nat} {m : Memory} (ha : a + bs.length ≤ size)
    (h : Memory.wf size m = true) : Memory.wf size (memStore a bs m) = true := by
  induction bs generalizing a m with
  | nil => exact h
  | cons b bs ih =>
    simp only [List.length_cons] at ha
    exact ih (by omega) (wf_memInsert b (by omega) h)

/-- The byte MemRead sees, from the memory of its space. -/
theorem byteAt_eq_of_mem {s t : State} {sp : Space} (h : t.mem sp = s.mem sp) (a : Nat) :
    t.byteAt sp a = s.byteAt sp a := by simp [State.byteAt, h]

theorem inSpace_length {v : Variant} {sp : Space} {a n : Nat} (h : inSpace v sp a n = true) :
    a + n ≤ Config.spaceSize sp := by
  simp only [inSpace, Bool.and_eq_true, decide_eq_true_eq] at h
  exact h.1

/-- Everything MemRead can do. -/
theorem memRead_spec {sp : Space} {a n : Nat} {s : State} {bs : List Byte}
    (h : memRead sp a n s = .ok bs) :
    inSpace s.variant sp a n = true ∧ bs = s.bytesAt sp a n ∧ bs.length = n := by
  unfold memRead at h
  split at h
  · simp only [Except.ok.injEq] at h
    subst h
    exact ⟨‹_›, rfl, by simp [State.bytesAt]⟩
  · cases h

/-- Everything MemWrite can do. -/
theorem memWrite_spec {sp : Space} {a : Nat} {bs : List Byte} {s t : State}
    (h : memWrite sp a bs s = .ok t) :
    inSpace s.variant sp a bs.length = true ∧ t = s.putMem sp (memStore a bs (s.mem sp)) := by
  unfold memWrite at h
  split at h
  · simp only [Except.ok.injEq] at h
    exact ⟨‹_›, h.symm⟩
  · cases h

/-- MemWrite answers a state exactly where the addresses exist. -/
theorem memWrite_ok {sp : Space} {a : Nat} {bs : List Byte} {s : State}
    (h : inSpace s.variant sp a bs.length = true) :
    memWrite sp a bs s = .ok (s.putMem sp (memStore a bs (s.mem sp))) := by
  simp [memWrite, h]

/-- Everything a copy can do. -/
theorem memCopy_spec {dst src : Space} {d a n : Nat} {s t : State}
    (h : memCopy dst d src a n s = .ok t) :
    inSpace s.variant src a n = true ∧ inSpace s.variant dst d n = true
      ∧ t = s.putMem dst (memStore d (s.bytesAt src a n) (s.mem dst)) := by
  unfold memCopy at h
  split at h
  · cases h
  · next bs hr =>
    obtain ⟨h1, h2, h3⟩ := memRead_spec hr
    obtain ⟨h4, h5⟩ := memWrite_spec h
    rw [h3] at h4
    exact ⟨h1, h4, by rw [h5, h2]⟩

/-- A copy answers a state exactly where both ranges exist. -/
theorem memCopy_ok {dst src : Space} {d a n : Nat} {s : State}
    (h1 : inSpace s.variant src a n = true) (h2 : inSpace s.variant dst d n = true) :
    memCopy dst d src a n s = .ok (s.putMem dst (memStore d (s.bytesAt src a n) (s.mem dst))) := by
  have hl : (s.bytesAt src a n).length = n := by simp [State.bytesAt]
  simp [memCopy, memRead, h1, memWrite, hl, h2]

/-- A stored byte, as MemRead sees it. -/
theorem byteAt_putMem_inside (s : State) (sp : Space) (a k : Nat) (bs : List Byte)
    (h : k < bs.length) :
    (s.putMem sp (memStore a bs (s.mem sp))).byteAt sp (a + k) = bs[k] := by
  simp [State.byteAt, memLookup_memStore_inside bs a k _ h]

/-- A byte outside the stored range, as MemRead sees it. -/
theorem byteAt_putMem_outside (s : State) (sp sp' : Space) (a x : Nat) (bs : List Byte)
    (h : sp' ≠ sp ∨ x < a ∨ a + bs.length ≤ x) :
    (s.putMem sp (memStore a bs (s.mem sp))).byteAt sp' x = s.byteAt sp' x := by
  by_cases hsp : sp' = sp
  · subst hsp
    have h' : x < a ∨ a + bs.length ≤ x := by
      rcases h with h | h
      · exact absurd rfl h
      · exact h
    simp [State.byteAt, memLookup_memStore_outside bs a x _ h']
  · exact byteAt_eq_of_mem (putMem_mem_ne s _ hsp) x

/-- A byte of the source range, as a copy takes it. -/
theorem bytesAt_getElem (s : State) (sp : Space) (a n k : Nat)
    (h : k < (s.bytesAt sp a n).length) : (s.bytesAt sp a n)[k] = s.byteAt sp (a + k) := by
  simp [State.bytesAt]

@[simp] theorem bytesAt_length (s : State) (sp : Space) (a n : Nat) :
    (s.bytesAt sp a n).length = n := by simp [State.bytesAt]

@[simp] theorem rxBytes_length (d : Draws) (n : Nat) : (rxBytes d n).length = n := by
  simp [rxBytes]

end Sys2Proof.Laws
end

