-- ==== Sys2Proof/Laws/DoubleBuffer.lean ====
section
/-! SUPPORT. What giving a slot, preload and refill can do (R221, R223), each said once. -/

namespace Sys2Proof.Laws

open Sys2Proof.Machine

/-- Everything `give` can do: an OUT slot is filled and loaded, an IN slot is released. -/
theorem give_spec {i m : Nat} {b : Bool} {s t : State} (h : give i b m s = .ok t) :
    ((s.chan i).dir = .OUT
        ∧ inSpace s.variant .SYS ((s.chan i).xferBuf.toNat + (s.chan i).loaded.toNat) m = true
        ∧ inSpace s.variant .PMA (bufAddr (s.chan i) b) m = true
        ∧ t = (((s.putMem .PMA
              (memStore (bufAddr (s.chan i) b)
                (s.bytesAt .SYS ((s.chan i).xferBuf.toNat + (s.chan i).loaded.toNat) m) s.pma)).putChan i
            { s.chan i with loaded := BitVec.ofNat 19 ((s.chan i).loaded.toNat + m) }).emit
            [.LOAD i b m]))
      ∨ ((s.chan i).dir = .IN
        ∧ t = ((s.putChan i
            { s.chan i with loaded := BitVec.ofNat 19 ((s.chan i).loaded.toNat + m) }).emit
            [.RELEASE i b])) := by
  simp only [give] at h
  split at h
  · next hd =>
    split at h
    · cases h
    · next s1 hc =>
      obtain ⟨h1, h2, rfl⟩ := memCopy_spec hc
      simp only [Except.ok.injEq] at h
      exact .inl ⟨hd, h1, h2, h.symm⟩
  · next hd =>
    simp only [Except.ok.injEq] at h
    exact .inr ⟨hd, h.symm⟩

/-- What `give` leaves alone, in either direction: everything but channel i, the log and packet memory. -/
theorem give_frame {i m : Nat} {b : Bool} {s t : State} (h : give i b m s = .ok t) :
    t.variant = s.variant ∧ t.nch = s.nch ∧ t.port = s.port ∧ t.hostMode = s.hostMode
      ∧ t.fault = s.fault ∧ t.sys = s.sys ∧ t.resp = s.resp ∧ t.draws = s.draws
      ∧ t.inputs = s.inputs ∧ ∀ j, j ≠ i → t.chan j = s.chan j := by
  rcases give_spec h with ⟨-, -, -, rfl⟩ | ⟨-, rfl⟩
  · refine ⟨rfl, by simp, rfl, rfl, rfl, rfl, rfl, rfl, rfl, fun j hj => ?_⟩
    simp [chan_putChan_ne _ _ hj]
  · refine ⟨rfl, by simp, rfl, rfl, rfl, rfl, rfl, rfl, rfl, fun j hj => ?_⟩
    simp [chan_putChan_ne _ _ hj]

/-- The channel `give` leaves behind. -/
theorem give_chan {i m : Nat} {b : Bool} {s t : State} (hi : i < s.nch)
    (h : give i b m s = .ok t) :
    t.chan i = { s.chan i with loaded := BitVec.ofNat 19 ((s.chan i).loaded.toNat + m) } := by
  rcases give_spec h with ⟨-, -, -, rfl⟩ | ⟨-, rfl⟩
  · simp only [emit_chan]; rw [chan_putChan_self _ (by simpa using hi)]
  · simp only [emit_chan]; rw [chan_putChan_self _ hi]

/-- `give` completes for IN always, and for OUT where both ranges exist. -/
theorem give_completes {i m : Nat} {b : Bool} {s : State}
    (h : (s.chan i).dir = .OUT →
      inSpace s.variant .SYS ((s.chan i).xferBuf.toNat + (s.chan i).loaded.toNat) m = true
        ∧ inSpace s.variant .PMA (bufAddr (s.chan i) b) m = true) :
    ∃ t, give i b m s = .ok t := by
  simp only [give]
  split
  · next hd =>
    obtain ⟨h1, h2⟩ := h hd
    rw [memCopy_ok h1 h2]
    exact ⟨_, rfl⟩
  · exact ⟨_, rfl⟩

/-- Everything `refill` can do: at most one `give`, then the slot bits. -/
theorem refill_spec {i : Nat} {b : Bool} {s t : State} (h : refill i b s = .ok t) :
    ∃ s0 s1, s0 = s.putChan i { s.chan i with fillBusy := true }
      ∧ (((s0.chan i).loaded.toNat < (s0.chan i).xferLen.toNat
            ∧ give i b (nextPart (s0.chan i)) s0 = .ok s1)
          ∨ (¬ (s0.chan i).loaded.toNat < (s0.chan i).xferLen.toNat ∧ s1 = s0))
      ∧ t = s1.putChan i { s1.chan i with swBuf := !b, fillBusy := false } := by
  simp only [refill] at h
  split at h
  · cases h
  · next s1 hg =>
    simp only [Except.ok.injEq] at h
    refine ⟨_, s1, rfl, ?_, h.symm⟩
    split at hg
    · exact .inl ⟨‹_›, hg⟩
    · simp only [Except.ok.injEq] at hg
      exact .inr ⟨‹_›, hg.symm⟩

/-- Everything `preload` can do: slot 0, then slot 1 if any of the transfer is left. -/
theorem preload_spec {i : Nat} {s t : State} (h : preload i s = .ok t) :
    ∃ s0 s1, s0 = s.putChan i { s.chan i with swBuf := false, loaded := 0 }
      ∧ give i false (nextPart (s0.chan i)) s0 = .ok s1
      ∧ (((s1.chan i).loaded.toNat < (s1.chan i).xferLen.toNat
            ∧ give i true (nextPart (s1.chan i)) s1 = .ok t)
          ∨ (¬ (s1.chan i).loaded.toNat < (s1.chan i).xferLen.toNat ∧ t = s1)) := by
  simp only [preload] at h
  split at h
  · cases h
  · next s1 hg =>
    refine ⟨_, s1, rfl, hg, ?_⟩
    split at h
    · exact .inl ⟨‹_›, h⟩
    · simp only [Except.ok.injEq] at h
      exact .inr ⟨‹_›, h.symm⟩

end Sys2Proof.Laws
end

