-- ==== Sys2Proof/Laws/Handlers.lean ====
section
/-! SUPPORT. The parts of the XFRC handler as single record updates (R157, R160, R161), the saturating counters against their limits (R8, R35), and the CHH handler on an armed channel (R180). -/

namespace Sys2Proof.Laws

open Sys2Proof.Machine

/-- The count at XFRC as one update (R161). -/
theorem countAtXfrc_eq (v : Variant) (c : Channel) :
    countAtXfrc v c =
      { c with
        xferCount :=
          if c.dir = .OUT ∨ dmaOn v = true then c.xferLen - c.resid else c.xferCount } := by
  unfold countAtXfrc
  split <;> rfl

/-- Writing the transfer's toggle as one update (R25). -/
theorem setTgl_eq (v : Bool) (c : Channel) :
    setTgl v c =
      { c with
        toggleIn := if c.dir = .IN then v else c.toggleIn
        toggleOut := if c.dir = .OUT then v else c.toggleOut } := by
  unfold setTgl
  split <;> next h => simp only [h, reduceCtorEq, if_true, if_false]

/-- The toggle law at XFRC as one update (R160). -/
theorem toggleAtXfrc_eq (c : Channel) :
    toggleAtXfrc c =
      { c with
        toggleIn :=
          if c.dir = .IN ∧ c.epType ≠ .ISOC ∧ c.setup = false then
            (c.tgl0 ^^ decide (npk c.xferCount.toNat c.mps.toNat % 2 = 1)) else c.toggleIn
        toggleOut :=
          if c.dir = .OUT ∧ c.epType ≠ .ISOC ∧ c.setup = false then
            (c.tgl0 ^^ decide (npk c.xferCount.toNat c.mps.toNat % 2 = 1)) else c.toggleOut } := by
  unfold toggleAtXfrc
  by_cases h : c.epType ≠ .ISOC ∧ c.setup = false
  · simp only [if_pos h, and_iff_left h, setTgl_eq]
  · simp only [if_neg h, mt And.right h, if_false]

/-- The packet count of R157, where the maximum packet size is not 0. -/
theorem npk_eq {m : Nat} (n : Nat) (h : m ≠ 0) : npk n m = packetCount n m := by
  simp only [npk, packetCount, if_neg h, Nat.add_sub_assoc (Nat.one_le_iff_ne_zero.2 h)]

/-- DMA mode is the OTG variant with DMA_EN = 1 (R9). -/
theorem dmaOn_iff (v : Variant) : dmaOn v = true ↔ v = .OTG true := by
  cases v <;> simp [dmaOn]

/-- The FS variant (R10). -/
theorem isFs_iff (v : Variant) : isFs v = true ↔ v = .FS := by
  cases v <;> simp [isFs]

/-- A retry counter passes its limit of 2 exactly on the third count, and below it counts by one (R8, R35). -/
theorem satInc_limit (n : BitVec 2) :
    (2 < (satInc n).toNat ↔ 2 ≤ n.toNat) ∧ (n.toNat < 2 → satInc n = n + 1) := by
  revert n
  decide

/-- A CHH of an armed channel dispatches on the state that requested the halt (R180). -/
theorem handle_chh_armed (v : Variant) (i : Nat) {c : Channel} (h : c.armed = true) :
    handle v i .CHH (dropFlag .CHH c) =
      chhFrom c.state i
        (ChanStep.start { c with
          hcint := clearFlag c.hcint .CHH
          haltPending := false, armed := false, state := .HALTED }) := by
  simp [handle, chh, dropFlag, h]

end Sys2Proof.Laws
end

