-- ==== Sys2Proof/Laws/PerInstr.lean ====
section
/-! SUPPORT. A family stated per instruction: the word the encoder writes lies in the row spec/opcode_table.json gives the instruction (its match under its mask), so its OP is the row's and its reserved bits are 0 (R80, R93, R96). -/

namespace Sys2Proof.Laws

/-- The mask of the instruction's row: the OP field and the reserved bits of its format. -/
def tableMask : Instr → Word
  | .config _ _ _ _ _ _ _ => 0xF80000000fffffff#64
  | .configDbuf _ _ _ _ => 0xF83f00000000ffff#64
  | .submit _ _ _ _ _ _ => 0xF800000000000000#64
  | .halt _ => 0xF87fffffffffffff#64
  | .setHub _ _ _ => 0xF80001ffffffffff#64
  | .clearHub _ => 0xF87fffffffffffff#64
  | .getUrb _ => 0xF87fffffffffffff#64
  | .getCount _ => 0xF87fffffffffffff#64
  | .evXfrc _ _ => 0xF8780000ffffffff#64
  | .evAck _ => 0xF87fffffffffffff#64
  | .evNak _ => 0xF87fffffffffffff#64
  | .evStall _ => 0xF87fffffffffffff#64
  | .evXacterr _ => 0xF87fffffffffffff#64
  | .evBblerr _ => 0xF87fffffffffffff#64
  | .evDterr _ => 0xF87fffffffffffff#64
  | .evFrmor _ => 0xF87fffffffffffff#64
  | .evNyet _ => 0xF87fffffffffffff#64
  | .evChh _ => 0xF87fffffffffffff#64
  | .evPkt _ _ _ => 0xF87800007fffffff#64
  | .evDbufAck _ _ _ => 0xF8380000ffffffff#64
  | .evPort _ _ => 0xFf83ffffffffffff#64
  | .dispatch => 0xFfffffffffffffff#64

/-- The match of the instruction's row. -/
def tableMatch : Instr → Word
  | .config _ _ _ _ _ _ _ => 0x0800000000000000#64
  | .configDbuf _ _ _ _ => 0x1000000000000000#64
  | .submit _ _ _ _ _ _ => 0x1800000000000000#64
  | .halt _ => 0x2000000000000000#64
  | .setHub _ _ _ => 0x2800000000000000#64
  | .clearHub _ => 0x3000000000000000#64
  | .getUrb _ => 0x3800000000000000#64
  | .getCount _ => 0x4000000000000000#64
  | .evXfrc _ _ => 0x8000000000000000#64
  | .evAck _ => 0x8800000000000000#64
  | .evNak _ => 0x9000000000000000#64
  | .evStall _ => 0x9800000000000000#64
  | .evXacterr _ => 0xA000000000000000#64
  | .evBblerr _ => 0xA800000000000000#64
  | .evDterr _ => 0xB000000000000000#64
  | .evFrmor _ => 0xB800000000000000#64
  | .evNyet _ => 0xC000000000000000#64
  | .evChh _ => 0xC800000000000000#64
  | .evPkt _ _ _ => 0xD000000000000000#64
  | .evDbufAck _ _ _ => 0xD800000000000000#64
  | .evPort _ _ => 0xE000000000000000#64
  | .dispatch => 0xF800000000000000#64

/-- The words of format CHN and of the nine events without a field: OP, channel, 55 reserved bits. -/
theorem channelWord_row (op : BitVec 5) (c : ChanIx) :
    (op ++ c ++ 0#55 : Word) &&& 0xF87FFFFFFFFFFFFF#64 = op ++ 0#59 := by
  apply BitVec.eq_of_getLsbD_eq
  intro i hi
  simp only [BitVec.getLsbD_and, BitVec.getLsbD_append]
  interval_cases i <;> simp

/-- The instruction's word lies in its row of the opcode table. -/
def TableRow.Statement (i : Instr) : Prop := encode i &&& tableMask i = tableMatch i

theorem TableRow.config (c : ChanIx) (dir : Dir) (et : EpType) (sp : BitVec 2) (da : BitVec 7) (en : BitVec 4) (mps : BitVec 11) :
    TableRow.Statement (.config c dir et sp da en mps) := by
  simp only [TableRow.Statement, encode, tableMask, tableMatch]
  generalize dirBit dir = x0
  generalize epTypeCode et = x1
  apply BitVec.eq_of_getLsbD_eq
  intro i hi
  simp only [BitVec.getLsbD_and, BitVec.getLsbD_append]
  interval_cases i <;> simp

theorem TableRow.configDbuf (c : ChanIx) (en : Bool) (b0 : BitVec 16) (b1 : BitVec 16) :
    TableRow.Statement (.configDbuf c en b0 b1) := by
  simp only [TableRow.Statement, encode, tableMask, tableMatch]
  generalize BitVec.ofBool en = x0
  apply BitVec.eq_of_getLsbD_eq
  intro i hi
  simp only [BitVec.getLsbD_and, BitVec.getLsbD_append]
  interval_cases i <;> simp

theorem TableRow.submit (c : ChanIx) (dir : Dir) (et : EpType) (su : Bool) (len : BitVec 19) (buf : BitVec 32) :
    TableRow.Statement (.submit c dir et su len buf) := by
  simp only [TableRow.Statement, encode, tableMask, tableMatch]
  generalize dirBit dir = x0
  generalize epTypeCode et = x1
  generalize BitVec.ofBool su = x2
  apply BitVec.eq_of_getLsbD_eq
  intro i hi
  simp only [BitVec.getLsbD_and, BitVec.getLsbD_append]
  interval_cases i <;> simp

theorem TableRow.halt (c : ChanIx) :
    TableRow.Statement (.halt c) := by
  exact (channelWord_row _ c).trans rfl

theorem TableRow.setHub (c : ChanIx) (ha : BitVec 7) (hp : BitVec 7) :
    TableRow.Statement (.setHub c ha hp) := by
  simp only [TableRow.Statement, encode, tableMask, tableMatch]
  apply BitVec.eq_of_getLsbD_eq
  intro i hi
  simp only [BitVec.getLsbD_and, BitVec.getLsbD_append]
  interval_cases i <;> simp

theorem TableRow.clearHub (c : ChanIx) :
    TableRow.Statement (.clearHub c) := by
  exact (channelWord_row _ c).trans rfl

theorem TableRow.getUrb (c : ChanIx) :
    TableRow.Statement (.getUrb c) := by
  exact (channelWord_row _ c).trans rfl

theorem TableRow.getCount (c : ChanIx) :
    TableRow.Statement (.getCount c) := by
  exact (channelWord_row _ c).trans rfl

theorem TableRow.evXfrc (c : ChanIx) (resid : BitVec 19) :
    TableRow.Statement (.evXfrc c resid) := by
  simp only [TableRow.Statement, encode, tableMask, tableMatch]
  apply BitVec.eq_of_getLsbD_eq
  intro i hi
  simp only [BitVec.getLsbD_and, BitVec.getLsbD_append]
  interval_cases i <;> simp

theorem TableRow.evAck (c : ChanIx) :
    TableRow.Statement (.evAck c) := by
  exact (channelWord_row _ c).trans rfl

theorem TableRow.evNak (c : ChanIx) :
    TableRow.Statement (.evNak c) := by
  exact (channelWord_row _ c).trans rfl

theorem TableRow.evStall (c : ChanIx) :
    TableRow.Statement (.evStall c) := by
  exact (channelWord_row _ c).trans rfl

theorem TableRow.evXacterr (c : ChanIx) :
    TableRow.Statement (.evXacterr c) := by
  exact (channelWord_row _ c).trans rfl

theorem TableRow.evBblerr (c : ChanIx) :
    TableRow.Statement (.evBblerr c) := by
  exact (channelWord_row _ c).trans rfl

theorem TableRow.evDterr (c : ChanIx) :
    TableRow.Statement (.evDterr c) := by
  exact (channelWord_row _ c).trans rfl

theorem TableRow.evFrmor (c : ChanIx) :
    TableRow.Statement (.evFrmor c) := by
  exact (channelWord_row _ c).trans rfl

theorem TableRow.evNyet (c : ChanIx) :
    TableRow.Statement (.evNyet c) := by
  exact (channelWord_row _ c).trans rfl

theorem TableRow.evChh (c : ChanIx) :
    TableRow.Statement (.evChh c) := by
  exact (channelWord_row _ c).trans rfl

theorem TableRow.evPkt (c : ChanIx) (n : BitVec 19) (more : Bool) :
    TableRow.Statement (.evPkt c n more) := by
  simp only [TableRow.Statement, encode, tableMask, tableMatch]
  generalize BitVec.ofBool more = x0
  apply BitVec.eq_of_getLsbD_eq
  intro i hi
  simp only [BitVec.getLsbD_and, BitVec.getLsbD_append]
  interval_cases i <;> simp

theorem TableRow.evDbufAck (c : ChanIx) (bufsel : Bool) (n : BitVec 19) :
    TableRow.Statement (.evDbufAck c bufsel n) := by
  simp only [TableRow.Statement, encode, tableMask, tableMatch]
  generalize BitVec.ofBool bufsel = x0
  apply BitVec.eq_of_getLsbD_eq
  intro i hi
  simp only [BitVec.getLsbD_and, BitVec.getLsbD_append]
  interval_cases i <;> simp

theorem TableRow.evPort (pev : BitVec 3) (sp : BitVec 2) :
    TableRow.Statement (.evPort pev sp) := by
  simp only [TableRow.Statement, encode, tableMask, tableMatch]
  apply BitVec.eq_of_getLsbD_eq
  intro i hi
  simp only [BitVec.getLsbD_and, BitVec.getLsbD_append]
  interval_cases i <;> simp

theorem TableRow.dispatch :
    TableRow.Statement .dispatch := by
  simp [TableRow.Statement, encode, tableMask, tableMatch]

end Sys2Proof.Laws
end

