-- ==== Sys2Proof/Laws/Submit.lean ====
section
/-! SUPPORT. What SUBMIT programs, each part as one record update, and the two readings of an ARM record and of the SUBMIT check (R102, R120 to R124). -/

namespace Sys2Proof.Laws

open Sys2Proof.Machine

/-- The forced toggles as one update (R120). -/
theorem forceToggles_eq (su : Bool) (et : EpType) (dir : Dir) (len : BitVec 19) (c : Channel) :
    forceToggles su et dir len c =
      { c with
        toggleOut :=
          if su = true ∨ (et = .CTRL ∧ dir = .OUT ∧ len = 0) then true else c.toggleOut
        toggleIn :=
          if su = false ∧ et = .CTRL ∧ dir = .IN ∧ (len = 0 ∨ c.doSplit = false) then true
          else c.toggleIn } := by
  unfold forceToggles
  cases su <;> cases dir <;> by_cases he : et = .CTRL <;> by_cases hl : len = 0 <;>
    cases hd : c.doSplit <;>
    simp only [he, hl, reduceCtorEq, if_true, if_false, and_true, and_false,
      or_true, or_false, Bool.false_eq_true, Bool.true_eq_false]
  all_goals (cases c; simp only at hd; subst hd; rfl)

/-- The split phase at SUBMIT as one update (R123). -/
theorem splitPhaseAtSubmit_eq (c : Channel) :
    splitPhaseAtSubmit c =
      { c with ssplit := if c.doSplit = true ∧ c.csplit = false then true else c.ssplit } := by
  unfold splitPhaseAtSubmit
  split <;> rfl

/-- The odd-frame bit at SUBMIT as one update (R124). -/
theorem frameParity_eq (et : EpType) (f : BitVec 16) (c : Channel) :
    frameParity et f c =
      { c with
        oddfrm := if et = .INTR ∨ et = .ISOC then decide (f.toNat % 2 = 0) else c.oddfrm } := by
  cases et <;> rfl

/-- SUBMIT programs the record that `submittedRecord` lists field by field. -/
theorem programTransfer_eq (dir : Dir) (et : EpType) (su : Bool) (len : BitVec 19)
    (buf : BitVec 32) (frame : BitVec 16) (c : Channel) :
    programTransfer dir et su len buf frame c = submittedRecord dir et su len buf frame c := by
  simp only [programTransfer, submittedRecord, forceToggles_eq, splitPhaseAtSubmit_eq,
    frameParity_eq, tgl]
  cases dir <;> rfl

/-- The ARM record of a channel, from its fields. -/
theorem armRecord_eq (i : Nat) (c : Channel) : armRecord i c = armOf i c := by
  have h : tgl c = (if c.dir = .IN then c.toggleIn else c.toggleOut) := by
    unfold tgl
    split <;> simp_all
  simp only [armRecord, armOf, pid, h, phase, remaining, nextAddr]

/-- The SUBMIT check from its four clauses (R122). -/
theorem subOk_of {v : Variant} {c : Channel} {dir : Dir} {et : EpType} {su : Bool}
    {len : BitVec 19} {buf : BitVec 32} (h1 : su = true → et = .CTRL ∧ dir = .OUT)
    (h2 : c.dbufEn = true → et = .BULK ∨ et = .ISOC) (h3 : v = .OTG true → buf.toNat % 4 = 0)
    (h4 : buf.toNat + len.toNat ≤ 2 ^ 32) : subOk v c dir et su len buf = true := by
  have e1 : (!su || (decide (et = .CTRL) && decide (dir = .OUT))) = true := by
    cases su <;> simp_all
  have e2 : (!c.dbufEn || isBulkIsoc et) = true := by
    cases hd : c.dbufEn
    · rfl
    · rcases h2 hd with rfl | rfl <;> rfl
  have e3 : (!dmaOn v || decide (buf.toNat % 4 = 0)) = true := by
    cases v with
    | FS => rfl
    | OTG d => cases d <;> simp_all [dmaOn]
  simp only [subOk, e1, e2, e3, h4, decide_true, Bool.and_self]

end Sys2Proof.Laws
end

