-- ==== Sys2Proof/Tests/Slice0.lean ====
section
/-! SUPPORT. The model's own tests: what WellFormed and the decoder refuse, one word of every operation written out from its format, one step of every instruction (expected values from the examples of the rules and from spec/95_test_vectors.md), and for every statement with hypotheses a state and operands that meet them. -/

namespace Sys2Proof.Tests

open Sys2Proof Sys2Proof.Machine

/-! ## Helpers -/

/-- A configured bulk IN channel of a full-speed device, 64-byte packets. -/
def bulkIn : Channel :=
  { Channel.reset with
    configured := true, dir := .IN, epType := .BULK, mps := 64, speed := .FS, imsk := 0x3FF }

/-- The same channel with 100 bytes in flight. -/
def flying : Channel := { bulkIn with armed := true, state := .IDLE, xferLen := 100, xferBuf := 0x1000 }

/-- The same, double-buffered. -/
def doubled : Channel := { flying with dbufEn := true, bufAddr0 := 0x100, bufAddr1 := 0x140 }

/-- Two channels, the second as given. -/
def two (v : Variant) (c : Channel) : State := { State.resetOf v 2 true with ch := [Channel.reset, c] }

/-- Two channels, the second with one unmasked pending flag. -/
def pending (v : Variant) (k : ChanEvent) (c : Channel) : State := two v { c with hcint := eventMask k }

/-- The next state, if there is one. -/
def nextOf : Result → Option State
  | .next s => some s
  | .fault _ => none
  | .refused _ => none

/-- A view of the state after an instruction. -/
def after {α : Type} (i : Instr) (s : State) (f : State → α) : Option α := (nextOf (exec i s)).map f

/-- Draws with which nothing goes wrong. -/
def draws0 : Draws := { hwOk := true, frame := 0, rxData := [] }

/-- A state that has received this word. -/
def received (w : Word) (s : State) : State := { s with inputs := [.word w draws0] }

/-! ## WellFormed refuses the ill-formed -/

/-- PEV 5 is reserved (R94). -/
theorem test_wellFormed_refuses_pev_5 : (Instr.evPort 5 0).wellFormed = false := by decide
/-- SPEED 3 is reserved in EV_PORT (R94). -/
theorem test_wellFormed_refuses_speed_3 : (Instr.evPort 0 3).wellFormed = false := by decide
/-- The last legal codes pass. -/
theorem test_wellFormed_admits_the_last_codes : (Instr.evPort 4 2).wellFormed = true := by decide
/-- SPEED 3 in CONFIG is a legal word (R94). -/
theorem test_wellFormed_admits_config_speed_3 : (Instr.config 0 .IN .BULK 3 0 0 64).wellFormed = true := by
  decide

/-! ## The decoder: one word of every operation, its fields written out from bit 63 down -/

theorem test_decode_config :
    decode (0b00001_0010_1_10_01_0000101_0001_00001000000#36 ++ 0#28)
      = .ok (.config 2 .IN .BULK 1 5 1 64) := by decide
theorem test_decode_configDbuf :
    decode (0b00010_0000_1_000000#16 ++ 0x0100#16 ++ 0x0140#16 ++ 0#16)
      = .ok (.configDbuf 0 true 0x0100 0x0140) := by decide
theorem test_decode_submit :
    decode (0b00011_0001_1_10_0#13 ++ 200#19 ++ 0x20000000#32)
      = .ok (.submit 1 .IN .BULK false 200 0x20000000) := by decide
theorem test_decode_halt : decode (0b00100_0001#9 ++ 0#55) = .ok (.halt 1) := by decide
theorem test_decode_setHub :
    decode (0b00101_0100_0000011_0000010#23 ++ 0#41) = .ok (.setHub 4 3 2) := by decide
theorem test_decode_clearHub : decode (0b00110_0001#9 ++ 0#55) = .ok (.clearHub 1) := by decide
theorem test_decode_getUrb : decode (0b00111_0001#9 ++ 0#55) = .ok (.getUrb 1) := by decide
theorem test_decode_getCount : decode (0b01000_0001#9 ++ 0#55) = .ok (.getCount 1) := by decide
theorem test_decode_evXfrc :
    decode (0b10000_0001_0000#13 ++ 201#19 ++ 0#32) = .ok (.evXfrc 1 201) := by decide
theorem test_decode_evAck : decode (0b10001_0001#9 ++ 0#55) = .ok (.evAck 1) := by decide
theorem test_decode_evNak : decode (0b10010_0001#9 ++ 0#55) = .ok (.evNak 1) := by decide
theorem test_decode_evStall : decode (0b10011_0011#9 ++ 0#55) = .ok (.evStall 3) := by decide
theorem test_decode_evXacterr : decode (0b10100_0001#9 ++ 0#55) = .ok (.evXacterr 1) := by decide
theorem test_decode_evBblerr : decode (0b10101_0011#9 ++ 0#55) = .ok (.evBblerr 3) := by decide
theorem test_decode_evDterr : decode (0b10110_0011#9 ++ 0#55) = .ok (.evDterr 3) := by decide
theorem test_decode_evFrmor : decode (0b10111_0011#9 ++ 0#55) = .ok (.evFrmor 3) := by decide
theorem test_decode_evNyet : decode (0b11000_0001#9 ++ 0#55) = .ok (.evNyet 1) := by decide
theorem test_decode_evChh : decode (0b11001_0001#9 ++ 0#55) = .ok (.evChh 1) := by decide
theorem test_decode_evPkt :
    decode (0b11010_0001_0000#13 ++ 64#19 ++ 1#1 ++ 0#31) = .ok (.evPkt 1 64 true) := by decide
theorem test_decode_evDbufAck :
    decode (0b11011_0000_1_000#13 ++ 64#19 ++ 0#32) = .ok (.evDbufAck 0 true 64) := by decide
theorem test_decode_evPort :
    decode (0b11100_0000_010_00#14 ++ 0#50) = .ok (.evPort 2 0) := by decide
theorem test_decode_dispatch : decode (0b11111#5 ++ 0#59) = .ok .dispatch := by decide

/-- The words spec/95_test_vectors.md prints for the same operations. -/
theorem test_decode_vectors :
    decode 0x0A64288400000000 = .ok (.config 4 .IN .BULK 1 5 1 64)
      ∧ decode 0x0938498080000000 = .ok (.config 2 .OUT .INTR 2 9 3 8)
      ∧ decode 0xD080004080000000 = .ok (.evPkt 1 64 true)
      ∧ decode 0xD840004000000000 = .ok (.evDbufAck 0 true 64)
      ∧ decode 0xE004000000000000 = .ok (.evPort 0 1) := by decide

/-- Reserved opcodes, reserved bits and reserved codes are refused by name, in that order (R96). -/
theorem test_decode_refuses :
    decode 0 = .error .reservedOp ∧ decode 0xE8000000FFFFFFFF = .error .reservedOp
      ∧ decode 0x2080000000000001 = .error .reservedBits
      ∧ decode 0xE080000000000000 = .error .reservedBits
      ∧ decode 0xF880000000000000 = .error .reservedBits
      ∧ decode 0xE050000000000000 = .error .reservedEnum
      ∧ decode 0xE00C000000000000 = .error .reservedEnum
      ∧ decode 0xE050000000000001 = .error .reservedBits := by decide

/-- The assembly text of the encoding example (R97, R99). -/
theorem test_asm :
    (Instr.submit 1 .IN .BULK false 200 0x20000000).asm = "SUBMIT 1, IN, BULK, DATA, 200, 536870912" := by
  decide

/-! ## One step of every instruction -/

/-- R110's example. -/
theorem test_config :
    after (.config 2 .IN .BULK 1 5 1 64) State.reset
        (fun t => ((t.chan 2).mps, (t.chan 2).state, (t.chan 2).imsk, t.resp))
      = some (64, .HALTED, 0x3FF, some 0) := by decide
/-- A zero maximum packet size is refused (R111; ERR_PARAM is 5). -/
theorem test_config_mps_0 :
    after (.config 2 .IN .BULK 1 5 1 0) State.reset (fun t => (t.resp, (t.chan 2).configured))
      = some (some 0x5000000000000000, false) := by decide
/-- R115's example. -/
theorem test_configDbuf :
    after (.configDbuf 1 true 0x0100 0x0140) (two .FS bulkIn)
        (fun t => ((t.chan 1).bufAddr0, (t.chan 1).bufAddr1, t.resp))
      = some (0x0100, 0x0140, some 0) := by decide
/-- Slots that overlap by one byte are refused (R116). -/
theorem test_configDbuf_overlap :
    after (.configDbuf 1 true 0x0100 0x013E) (two .FS bulkIn) (fun t => t.resp)
      = some (some 0x5000000000000000) := by decide
/-- R121's example. -/
theorem test_submit :
    after (.submit 1 .IN .BULK false 200 0x20000000) (two (.OTG false) bulkIn)
        (fun t => (t.out, (t.chan 1).armed, (t.chan 1).state, t.resp))
      = some ([.ARM 1 .DATA0 .NONE false 200 0x20000000], true, .IDLE, some 0) := by decide
/-- A control status stage IN is forced to DATA1, whatever the toggle (R120). -/
theorem test_submit_status :
    after (Instr.statusIn 1) (two (.OTG false) bulkIn) (fun t => t.out)
      = some [.ARM 1 .DATA1 .NONE false 0 0] := by decide
/-- R131's example. -/
theorem test_halt :
    after (.halt 1) (two (.OTG false) flying)
        (fun t => (t.out, (t.chan 1).armed, (t.chan 1).state, (t.chan 1).urb))
      = some ([.HALT_REQ 1], false, .HALTED, .IDLE) := by decide
/-- R140's example; on the FS variant no split token is ever issued. -/
theorem test_setHub :
    after (.setHub 1 3 2) (two (.OTG false) bulkIn) (fun t => (t.chan 1).doSplit) = some true
      ∧ after (.setHub 1 3 2) (two .FS bulkIn) (fun t => ((t.chan 1).doSplit, (t.chan 1).hubAddr))
        = some (false, 3) := by decide
/-- R141's example. -/
theorem test_clearHub :
    after (.clearHub 1) (two (.OTG false) { bulkIn with doSplit := true, hubPort := 2 })
        (fun t => ((t.chan 1).doSplit, (t.chan 1).hubPort)) = some (false, 0) := by decide
/-- R143's example, and the reschedule bit. -/
theorem test_getUrb :
    after (.getUrb 1) (two (.OTG false) { bulkIn with urb := .DONE }) (fun t => t.resp) = some (some 1)
      ∧ after (.getUrb 1) (two (.OTG false) { bulkIn with urb := .ERROR, resched := true })
          (fun t => t.resp) = some (some 11) := by decide
/-- R144's example. -/
theorem test_getCount :
    after (.getCount 1) (two (.OTG false) { bulkIn with xferCount := 200 }) (fun t => t.resp)
      = some (some 200) := by decide
/-- Bit 0 and the residual count (R85, R150); one byte more than the transfer is a fault (R263, code 3). -/
theorem test_evXfrc :
    after (.evXfrc 1 100) (two (.OTG true) flying) (fun t => ((t.chan 1).hcint, (t.chan 1).resid))
        = some (1, 100)
      ∧ after (.evXfrc 1 101) (two (.OTG true) flying) (fun t => t.fault)
        = some { valid := true, code := .UNEXPECTED_EVENT, word := 0x8080006500000000 } := by decide
/-- Bits 1 to 9 (R85). -/
theorem test_evAck : after (.evAck 1) (two .FS flying) (fun t => (t.chan 1).hcint) = some 0x002 := by decide
theorem test_evNak : after (.evNak 1) (two .FS flying) (fun t => (t.chan 1).hcint) = some 0x004 := by decide
theorem test_evStall : after (.evStall 1) (two .FS flying) (fun t => (t.chan 1).hcint) = some 0x008 := by decide
theorem test_evXacterr : after (.evXacterr 1) (two .FS flying) (fun t => (t.chan 1).hcint) = some 0x010 := by
  decide
theorem test_evBblerr : after (.evBblerr 1) (two .FS flying) (fun t => (t.chan 1).hcint) = some 0x020 := by
  decide
theorem test_evDterr : after (.evDterr 1) (two .FS flying) (fun t => (t.chan 1).hcint) = some 0x040 := by decide
theorem test_evFrmor : after (.evFrmor 1) (two .FS flying) (fun t => (t.chan 1).hcint) = some 0x080 := by decide
theorem test_evNyet : after (.evNyet 1) (two .FS flying) (fun t => (t.chan 1).hcint) = some 0x100 := by decide
theorem test_evChh : after (.evChh 1) (two .FS flying) (fun t => (t.chan 1).hcint) = some 0x200 := by decide
/-- Vector V1, row 2: a full packet with more to come flips the toggle and re-arms for the rest. -/
theorem test_evPkt :
    after (.evPkt 1 64 true)
        (two (.OTG false) { bulkIn with
          armed := true, state := .IDLE, xferLen := 200, xferBuf := 0x20000000 })
        (fun t => (t.out, (t.chan 1).xferCount)) = some ([.ARM 1 .DATA1 .NONE false 136 0x20000040], 64) := by
  decide
/-- The bytes go to ascending addresses in bus order (R64). -/
theorem test_evPkt_bytes :
    after (.evPkt 1 2 false) { two (.OTG false) flying with draws := { draws0 with rxData := [7, 9] } }
        (fun t => t.sys) = some [(0x1000, 7), (0x1001, 9)] := by decide
/-- R222's example, its last packet: PATH_DISABLE before the report, no halt (R224). -/
theorem test_evDbufAck :
    after (.evDbufAck 1 false 64)
        (two .FS { doubled with dir := .OUT, xferLen := 192, xferCount := 128, loaded := 192 })
        (fun t => (t.out, (t.chan 1).xferCount, (t.chan 1).toggleOut, (t.chan 1).armed))
      = some ([.PATH_DISABLE 1, .URB 1 .DONE], 192, true, false) := by decide
/-- A packet larger than the slot is babble (R222). -/
theorem test_evDbufAck_overflow :
    after (.evDbufAck 1 false 65) (two .FS doubled) (fun t => (t.out, (t.chan 1).state))
      = some ([.HALT_REQ 1], .BBLERR) := by decide
/-- The examples of R252 and R254. -/
theorem test_evPort :
    after (.evPort 1 0) State.reset (fun t => t.out) = some [.FLUSH_FIFOS, .PORTCB .DISCONNECT]
      ∧ after (.evPort 3 0) { State.reset with port := { Port.reset with conn := .RUNNING } }
          (fun t => (t.port.conn, t.out)) = some (.CONNECTED, [.PORTCB .DISABLED]) := by decide
/-- R240's example: XFRC of channel 0 first, then NAK of channel 3; CHH of channel 0 stays pending. -/
theorem test_dispatch :
    after .dispatch
        { State.reset with ch :=
            [{ flying with hcint := 0x201 }, bulkIn, bulkIn, { flying with hcint := 0x004 }] }
        (fun t => (t.out, (t.chan 0).hcint, (t.chan 0).state, (t.chan 3).state))
      = some ([.HALT_REQ 0, .HALT_REQ 3], 0x200, .XFRC, .NAK) := by decide
/-- R160's example: four packets return the toggle to its value at SUBMIT. -/
theorem test_dispatch_xfrc :
    after .dispatch
        (pending (.OTG false) .XFRC { flying with xferLen := 200, xferCount := 200, toggleIn := true })
        (fun t => ((t.chan 1).toggleIn, t.out)) = some (false, [.HALT_REQ 1]) := by decide

/-- A step takes the word and runs it; an illegal word sets the fault register; a faulted block drops words (R15, R96, R262). -/
theorem test_step :
    (nextOf (step (received (encode (.halt 1)) (two .FS flying)))).map (fun t => (t.out, t.inputs))
        = some ([.HALT_REQ 1], [])
      ∧ (nextOf (step (received 0xE8000000FFFFFFFF State.reset))).map (fun t => t.fault)
        = some { valid := true, code := .ILLEGAL_OP, word := 0xE8000000FFFFFFFF } := by decide

/-! ## Witnesses: the hypotheses of each statement are met together -/

/-- One pending flag alone is the next flag. -/
theorem nextFlag_pending (k : ChanEvent) (c : Channel) (h1 : c.hcint = eventMask k) (h2 : c.imsk = 0x3FF) :
    NextFlag c k := by
  refine ⟨flagPriority.takeWhile (· ≠ k), (flagPriority.dropWhile (· ≠ k)).tail, ?_, ?_, ?_, ?_⟩
  · revert k; intro k _; cases k <;> decide
  · rw [h1]; clear h1; cases k <;> decide
  · rw [h2]; clear h1; cases k <;> decide
  · simp only [h1, h2]; clear h1 h2; revert k; intro k; cases k <;> decide

/-- The second of two channels is alone in a DISPATCH. -/
theorem alone_pending (v : Variant) (k : ChanEvent) (c : Channel) : AloneInDispatch (pending v k c) 1 := by
  refine ⟨rfl, Nat.lt_succ_self 1, ?_⟩
  intro j hj hne
  have : j = 0 := by
    have : j < 2 := hj
    omega
  subst this
  exact BitVec.zero_and

/-- A configured and armed channel beside a reset one meets the invariant. -/
theorem inv_flying (w : Word) : Inv (received w (two (.OTG false) flying)) := by
  have h0 : ChanInv (.OTG false) Channel.reset ∧ ChanAux (.OTG false) Channel.reset := by
    constructor <;> constructor <;> decide
  have h1 : ChanInv (.OTG false) flying ∧ ChanAux (.OTG false) flying := by
    constructor <;> constructor <;> decide
  refine ⟨Nat.succ_le_succ (Nat.zero_le 1), Nat.le_add_right 2 14, ?_, ?_, rfl, rfl, fun _ => rfl,
    fun _ => rfl, fun h => Bool.noConfusion h, ?_⟩
  · intro i hi
    have : i < 2 := hi
    interval_cases i
    · exact h0.1
    · exact h1.1
  · intro i hi
    have : i < 2 := hi
    interval_cases i
    · exact h0.2
    · exact h1.2
  · intro x hx
    have : x = .word w draws0 := by simpa [received] using hx
    subst this
    trivial

theorem witness_DecodeInvertsEncode : (Instr.evPort 4 2).wellFormed = true := by decide
theorem witness_EncodeInvertsDecode :
    decode 0xE048000000000000 = .ok (.evPort 4 2) := by decide
theorem witness_StepRunsTheDecodedInstruction :
    (received (encode (.halt 1)) State.reset).inputs = [.word (encode (.halt 1)) draws0]
      ∧ (received (encode (.halt 1)) State.reset).fault.valid = false
      ∧ decode (encode (.halt 1)) = .ok (.halt 1) := by decide
theorem witness_StepRaisesIllegalOp :
    (received 0 State.reset).inputs = [.word 0 draws0] ∧ (received 0 State.reset).fault.valid = false
      ∧ decode 0 = .error .reservedOp := by decide
/-- A state that receives a packet of two bytes. -/
def twoBytes : State :=
  { two (.OTG false) flying with
    inputs := [.word (encode (.evPkt 1 2 false)) { draws0 with rxData := [7, 9] }] }
/-- A block whose fault register is set. -/
def faulted : State := raiseFault .CH_RANGE 0x8800000000000000 State.reset
theorem witness_FaultedBlockDropsEveryWord :
    ([(0xF800000000000000, draws0), (0, draws0)] : List (Word × Draws)) ≠ [] ∧ faulted.fault.valid = true
      ∧ ({ faulted with inputs := [.word 0xF800000000000000 draws0, .word 0 draws0] } : State).inputs
        = ([(0xF800000000000000, draws0), (0, draws0)] : List (Word × Draws)).map
            (fun p => Stimulus.word p.1 p.2) := by decide
theorem witness_OnlyResetClearsTheFault :
    (received 0 faulted).fault.valid = true ∧ (received 0 faulted).inputs.head? ≠ some .reset
      ∧ step (received 0 faulted) = .next { faulted with resp := none } := by
  refine ⟨by decide, by decide, rfl⟩
theorem witness_ResetLeavesTheResetValues :
    ({ faulted with inputs := [.reset] } : State).inputs = [.reset] := rfl
theorem witness_ResetLeavesTheEnvironmentAlone :
    ({ twoBytes with inputs := .reset :: twoBytes.inputs } : State).inputs = .reset :: twoBytes.inputs := rfl
theorem witness_BlockWaitsWithoutInput : faulted.inputs = [] := rfl
theorem witness_ResetMeetsTheInvariant : (1 ≤ 1 ∧ 1 ≤ 16) ∧ 1 ≤ 16 ∧ 16 ≤ 16 := by decide
theorem witness_StepKeepsTheInvariant :
    Inv (received (encode (.halt 1)) (two (.OTG false) flying))
      ∧ (nextOf (step (received (encode (.halt 1)) (two (.OTG false) flying)))).isSome = true :=
  ⟨inv_flying _, by decide⟩
theorem witness_StepNeverStopsUnderTheInvariant : Inv (received (encode .dispatch) (two (.OTG false) flying)) :=
  inv_flying _
theorem witness_StepKeepsTheMemoryForm :
    MemoryForm twoBytes ∧ (nextOf (step twoBytes)).map (fun t => t.sys) = some [(0x1000, 7), (0x1001, 9)] :=
  ⟨⟨rfl, rfl⟩, by decide⟩
theorem witness_StepKeepsTheParameters :
    (nextOf (step twoBytes)).map (fun t => t.variant) = some (.OTG false) := by decide
theorem witness_OutputLogOnlyGrows :
    twoBytes.inputs.head? ≠ some .reset ∧ (nextOf (step twoBytes)).isSome = true := by decide
theorem witness_OutputLogIsWriteOnly : (nextOf (exec (.halt 1) (two .FS flying))).isSome = true := by decide
theorem witness_NoStepNarrowsAMask :
    twoBytes.inputs.head? ≠ some .reset ∧ (nextOf (step twoBytes)).isSome = true
      ∧ (twoBytes.chan 1).imsk.getLsbD 9 = true := by decide
theorem witness_ChannelsAreIsolated :
    (channelOf (.halt 1) = some 1 ∧ (nextOf (exec (.halt 1) (two .FS flying))).isSome = true ∧ 0 ≠ 1)
      ∧ (Instr.evPort 4 2).wellFormed = true ∧ (nextOf (exec (.evPort 4 2) faulted)).isSome = true := by
  decide
/-- The statement's two states differ in channel 0, the port and the log. -/
theorem witness_DispatchLeaksNothingBetweenChannels :
    let s := pending .FS .NAK flying
    let s' : State := { pending .FS .NAK flying with
      ch := [doubled, { flying with hcint := eventMask .NAK }]
      port := { Port.reset with ovrcur := true }, out := [.FLUSH_FIFOS] }
    1 < s.nch ∧ 1 < s'.nch ∧ s.variant = s'.variant ∧ s.hostMode = s'.hostMode ∧ s.chan 1 = s'.chan 1
      ∧ (nextOf (exec .dispatch s)).isSome = true ∧ (nextOf (exec .dispatch s')).isSome = true := by
  decide
theorem witness_OnlyEventHandlingNotifies :
    (Instr.halt 1) ≠ .dispatch ∧ (∀ c b n, (Instr.halt 1) ≠ .evDbufAck c b n)
      ∧ (nextOf (exec (.halt 1) (two .FS flying))).isSome = true := by
  refine ⟨by decide, ?_, by decide⟩
  intro c b n h
  cases h

theorem witness_ConfigConfiguresTheChannel :
    (1 : ChanIx).toNat < (two (.OTG false) bulkIn).nch
      ∧ ((two (.OTG false) bulkIn).chan (1 : ChanIx).toNat).armed = false
      ∧ (0, Speed.HS) ∈ [((0 : BitVec 2), Speed.HS), (1, .FS), (2, .LS)] ∧ (1 : BitVec 11) ≠ 0
      ∧ ¬ ((two (.OTG false) bulkIn).variant = .FS ∧ Speed.HS = .HS) := by decide
/-- Both values of `en`; the slots of the first touch and the second ends packet memory. -/
theorem witness_ConfigDbufSetsTheSlots :
    let s := two .FS bulkIn
    let b0 : BitVec 16 := 0xFF80
    let b1 : BitVec 16 := 0xFFC0
    (1 : ChanIx).toNat < s.nch ∧ (s.chan 1).configured = true ∧ (s.chan 1).armed = false
      ∧ (s.variant = .FS ∧ ((s.chan 1).epType = .BULK ∨ (s.chan 1).epType = .ISOC)
        ∧ b0.toNat % 2 = 0 ∧ b1.toNat % 2 = 0 ∧ b0.toNat + (s.chan 1).mps.toNat ≤ 2 ^ 16
        ∧ b1.toNat + (s.chan 1).mps.toNat ≤ 2 ^ 16
        ∧ (b0.toNat + (s.chan 1).mps.toNat ≤ b1.toNat ∨ b1.toNat + (s.chan 1).mps.toNat ≤ b0.toNat))
      ∧ ¬ (false = true) := by decide
/-- A SETUP packet in DMA mode that ends at the top of memory, and a start failure of the same. -/
theorem witness_SubmitArmsTheTransfer :
    let s := two (.OTG true) bulkIn
    (1 : ChanIx).toNat < s.nch ∧ (s.chan 1).configured = true ∧ (s.chan 1).armed = false
      ∧ (s.chan 1).dbufEn = false ∧ (EpType.CTRL = .CTRL ∧ Dir.OUT = .OUT)
      ∧ (0xFFFFFFF8 : BitVec 32).toNat % 4 = 0
      ∧ (0xFFFFFFF8 : BitVec 32).toNat + (8 : BitVec 19).toNat ≤ 2 ^ 32 ∧ s.draws.hwOk = true := by decide
theorem witness_SubmitReportsAStartFailure :
    let s : State := { two .FS { bulkIn with dbufEn := true } with draws := { draws0 with hwOk := false } }
    (1 : ChanIx).toNat < s.nch ∧ (s.chan 1).configured = true ∧ (s.chan 1).armed = false
      ∧ ((s.chan 1).dbufEn = true ∧ (EpType.ISOC = .BULK ∨ EpType.ISOC = .ISOC)) ∧ ¬ (false = true)
      ∧ s.variant ≠ .OTG true ∧ (0 : BitVec 32).toNat + (0 : BitVec 19).toNat ≤ 2 ^ 32
      ∧ s.draws.hwOk = false := by decide
/-- A double-buffered channel that is ready for a transfer; 100 bytes need both slots, 64 or 0 bytes one. -/
theorem witness_SubmitPreloadsBothSlotsForOut :
    let s := two .FS { doubled with armed := false, state := .HALTED, dir := .OUT }
    (1 : ChanIx).toNat < s.nch ∧ s.variant = .FS ∧ (s.chan 1).configured = true
      ∧ (s.chan 1).armed = false ∧ (s.chan 1).dbufEn = true ∧ (EpType.BULK = .BULK ∨ EpType.BULK = .ISOC)
      ∧ (0xFFFFFF9C : BitVec 32).toNat + (100 : BitVec 19).toNat ≤ 2 ^ 32 ∧ s.draws.hwOk = true
      ∧ 0x100 = (s.chan 1).bufAddr0.toNat ∧ 0x140 = (s.chan 1).bufAddr1.toNat
      ∧ 0x100 + (s.chan 1).mps.toNat ≤ 2 ^ 16 ∧ 0x140 + (s.chan 1).mps.toNat ≤ 2 ^ 16
      ∧ 0x100 + (s.chan 1).mps.toNat ≤ 0x140
      ∧ 64 = min (s.chan 1).mps.toNat (100 : BitVec 19).toNat
      ∧ 36 = min (s.chan 1).mps.toNat ((100 : BitVec 19).toNat - 64)
      ∧ 0 = min (s.chan 1).mps.toNat (0 : BitVec 19).toNat := by decide
theorem witness_SubmitGrantsBothSlotsForIn :
    let s := two .FS { doubled with armed := false, state := .HALTED }
    (1 : ChanIx).toNat < s.nch ∧ s.variant = .FS ∧ (s.chan 1).configured = true
      ∧ (s.chan 1).armed = false ∧ (s.chan 1).dbufEn = true ∧ (EpType.ISOC = .BULK ∨ EpType.ISOC = .ISOC)
      ∧ (0xFFFFFFC0 : BitVec 32).toNat + (64 : BitVec 19).toNat ≤ 2 ^ 32 ∧ s.draws.hwOk = true
      ∧ 64 = min (s.chan 1).mps.toNat (64 : BitVec 19).toNat
      ∧ 0 = min (s.chan 1).mps.toNat ((64 : BitVec 19).toNat - 64) := by decide
theorem witness_HaltCancelsTheTransfer :
    (1 : ChanIx).toNat < (two .FS flying).nch ∧ ((two .FS flying).chan 1).armed = true
      ∧ ((two .FS flying).chan 1).haltPending = false := by decide
/-- Each of the two cases. -/
theorem witness_HaltIsIdempotent :
    (0 : ChanIx).toNat < (two .FS flying).nch ∧ ((two .FS flying).chan 0).armed = false
      ∧ ((two .FS { flying with haltPending := true }).chan 1).haltPending = true := by decide
/-- A split transfer in complete-split phase and, in the queue, its HALT, the CHH and the DISPATCH that R304 puts next, and a SUBMIT. -/
def aborted : State :=
  { two (.OTG false) { flying with doSplit := true, csplit := true } with
    inputs := [.word (encode (.halt 1)) draws0, .word (encode (.evChh 1)) draws0,
      .word (encode .dispatch) draws0, .word (encode (.submit 1 .IN .BULK false 64 0x1000)) draws0] }
/-- The clause on the HALT and the clause on the SUBMIT alone. -/
theorem witness_HaltRestartsASplitTransfer :
    let s := two (.OTG false) { bulkIn with doSplit := true }
    (1 : ChanIx).toNat < aborted.nch ∧ (aborted.chan 1).armed = true
      ∧ (aborted.chan 1).haltPending = false ∧ (nextOf (exec (.halt 1) aborted)).isSome = true
      ∧ (s.chan 1).armed = false ∧ (s.chan 1).doSplit = true ∧ (s.chan 1).csplit = false
      ∧ (s.chan 1).dbufEn = false
      ∧ after (.submit 1 .IN .BULK false 64 0x1000) s (fun u => u.resp)
          = some (some (respWord .OK 0)) := by decide
/-- The clause on the whole queue: the two words between are no SUBMIT, and the SUBMIT succeeds. -/
theorem witness_HaltRestartsASplitTransfer_queue :
    aborted.fault.valid = false
      ∧ (∀ x ∈ [Instr.evChh 1, Instr.dispatch], ∀ dir et su len buf,
          decode (encode x) ≠ .ok (.submit 1 dir et su len buf))
      ∧ ((nextOf (Host.Core.run Sys2Proof.core 3 aborted)).map fun t =>
          ((t.chan 1).doSplit, (t.chan 1).dbufEn)) = some (true, false)
      ∧ ((nextOf (Host.Core.run Sys2Proof.core 3 aborted)).bind fun t =>
          (nextOf (step t)).map fun u => u.resp) = some (some (respWord .OK 0)) := by
  refine ⟨by decide, ?_, by decide, by decide⟩
  have h1 : decode (encode (.evChh 1)) = .ok (.evChh 1) := by decide
  have h2 : decode (encode .dispatch) = .ok .dispatch := by decide
  simp only [List.mem_cons, List.not_mem_nil, or_false]
  rintro x (rfl | rfl) dir et su len buf
  · rw [h1]; exact fun h => nomatch h
  · rw [h2]; exact fun h => nomatch h
theorem witness_HubCommandsRouteTheChannel :
    (1 : ChanIx).toNat < (two (.OTG true) bulkIn).nch ∧ ((two (.OTG true) bulkIn).chan 1).configured = true
      ∧ ((two (.OTG true) bulkIn).chan 1).armed = false := by decide
/-- The last channel that exists and the first that does not. -/
theorem witness_QueriesReadTheChannel :
    (1 : ChanIx).toNat < (two .FS bulkIn).nch ∧ (two .FS bulkIn).nch ≤ (2 : ChanIx).toNat := by decide
/-- Each failing check: no such channel; not configured; armed; each ground of ERR_PARAM. -/
theorem witness_CommandsAnswerTheFirstFailingCheck :
    (two .FS bulkIn).nch ≤ (2 : ChanIx).toNat ∧ (1 : ChanIx).toNat < (two .FS bulkIn).nch
      ∧ ((two .FS bulkIn).chan 0).configured = false
      ∧ (((two .FS flying).chan 1).configured = true ∧ ((two .FS flying).chan 1).armed = true)
      ∧ (((two .FS bulkIn).chan 1).configured = true ∧ ((two .FS bulkIn).chan 1).armed = false
        ∧ (two .FS bulkIn).variant = .FS ∧ (0 : BitVec 2) = 0)
      ∧ (two (.OTG false) bulkIn).variant ≠ .FS
      ∧ ((two .FS { bulkIn with epType := .CTRL }).chan 1).epType = .CTRL
      ∧ ((two .FS { bulkIn with epType := .INTR }).chan 1).epType = .INTR
      ∧ (1 : BitVec 16).toNat % 2 = 1
      ∧ 2 ^ 16 < (0xFFC2 : BitVec 16).toNat + ((two .FS bulkIn).chan 1).mps.toNat
      ∧ ((0x13E : BitVec 16).toNat < (0x100 : BitVec 16).toNat + ((two .FS bulkIn).chan 1).mps.toNat
        ∧ (0x100 : BitVec 16).toNat < (0x13E : BitVec 16).toNat + ((two .FS bulkIn).chan 1).mps.toNat)
      ∧ ¬ (EpType.BULK = .CTRL ∧ Dir.OUT = .OUT)
      ∧ ((two .FS { bulkIn with dbufEn := true }).chan 1).dbufEn = true
      ∧ ((two (.OTG true) bulkIn).variant = .OTG true ∧ (2 : BitVec 32).toNat % 4 ≠ 0)
      ∧ 2 ^ 32 < (0xFFFFFFFF : BitVec 32).toNat + (2 : BitVec 19).toNat := by decide

theorem witness_EventWordsLatchTheirFlag :
    eventWord .CHH 1 = some (.evChh 1) ∧ (1 : ChanIx).toNat < (two .FS flying).nch := by decide
/-- The residual count at its bound; a double-buffer enable off the FS variant is not in the way. -/
theorem witness_XfrcWordLatchesFlagAndResidual :
    (1 : ChanIx).toNat < (two .FS flying).nch
      ∧ ¬ ((two .FS flying).variant = .FS ∧ ((two .FS flying).chan 1).dbufEn = true)
      ∧ (100 : BitVec 19).toNat ≤ ((two .FS flying).chan 1).xferLen.toNat := by decide
/-- Each ground of each fault, at its bound. -/
theorem witness_ContradictoryEventsFault :
    (two .FS flying).nch ≤ (2 : ChanIx).toNat ∧ eventWord .ACK 2 = some (.evAck 2)
      ∧ (1 : ChanIx).toNat < (two .FS doubled).nch
      ∧ ((two .FS doubled).variant = .FS ∧ ((two .FS doubled).chan 1).dbufEn = true)
      ∧ ((two .FS flying).chan 1).xferLen.toNat < (101 : BitVec 19).toNat
      ∧ (two (.OTG true) flying).variant ≠ .OTG false ∧ (two .FS flying).variant ≠ .OTG false
      ∧ ((two (.OTG false) { flying with dir := .OUT }).chan 1).dir = .OUT
      ∧ ((two (.OTG false) bulkIn).chan 1).armed = false
      ∧ (two (.OTG false) doubled).variant ≠ .FS ∧ ((two .FS flying).chan 1).dbufEn = false
      ∧ ((two .FS { doubled with armed := false }).chan 1).armed = false := by decide
/-- A packet that fills the transfer to its last byte, at the top of memory; and a full packet with more to come. -/
theorem witness_PacketIsStoredAndCounted :
    let s := two (.OTG false) { flying with xferCount := 36, xferBuf := 0xFFFFFF9C }
    let c := s.chan 1
    (1 : ChanIx).toNat < s.nch ∧ s.variant = .OTG false ∧ c.dir = .IN ∧ c.armed = true
      ∧ c.xferCount.toNat + (64 : BitVec 19).toNat ≤ c.xferLen.toNat
      ∧ 0xFFFFFFC0 = c.xferBuf.toNat + c.xferCount.toNat ∧ 0xFFFFFFC0 + (64 : BitVec 19).toNat ≤ 2 ^ 32
      ∧ true = decide ((64 : BitVec 19).toNat = c.mps.toNat ∧ true = true)
      ∧ false = decide ((63 : BitVec 19).toNat = c.mps.toNat ∧ true = true) := by decide
theorem witness_PacketBeyondMemoryStops :
    let c := (two (.OTG false) { flying with xferBuf := 0xFFFFFFFF }).chan 1
    c.dir = .IN ∧ c.armed = true ∧ c.xferCount.toNat + (2 : BitVec 19).toNat ≤ c.xferLen.toNat
      ∧ 0xFFFFFFFF = c.xferBuf.toNat + c.xferCount.toNat
      ∧ 2 ^ 32 < 0xFFFFFFFF + (2 : BitVec 19).toNat := by decide
/-- Each of the two events, one byte too many; for a double-buffered channel also a packet larger than its slot. -/
theorem witness_PacketOverflowIsBabble :
    let c := (two (.OTG false) flying).chan 1
    let d := (two .FS doubled).chan 1
    (1 : ChanIx).toNat < (two .FS doubled).nch ∧ c.armed = true ∧ d.armed = true
      ∧ (c.dir = .IN ∧ c.xferLen.toNat < c.xferCount.toNat + (101 : BitVec 19).toNat)
      ∧ (d.dbufEn = true ∧ d.xferLen.toNat - d.xferCount.toNat < (101 : BitVec 19).toNat)
      ∧ d.mps.toNat < (65 : BitVec 19).toNat := by decide
theorem witness_DbufAckCompletesTheTransfer :
    let s := two .FS { doubled with xferCount := 36, loaded := 100 }
    let c := s.chan 1
    (1 : ChanIx).toNat < s.nch ∧ s.variant = .FS ∧ c.dbufEn = true ∧ c.armed = true
      ∧ c.haltPending = false ∧ c.xferCount.toNat + (64 : BitVec 19).toNat = c.xferLen.toNat
      ∧ (64 : BitVec 19).toNat ≤ c.mps.toNat ∧ 0x1024 = c.xferBuf.toNat + c.xferCount.toNat
      ∧ 0x1024 + (64 : BitVec 19).toNat ≤ 2 ^ 32 ∧ 0x140 = c.bufAddr1.toNat
      ∧ 0x140 + (64 : BitVec 19).toNat ≤ 2 ^ 16 := by decide
theorem witness_DbufAckRefillsTheSlotForOut :
    let s := two .FS { doubled with dir := .OUT, xferLen := 129, loaded := 128 }
    let c := s.chan 1
    (1 : ChanIx).toNat < s.nch ∧ s.variant = .FS ∧ c.dir = .OUT ∧ c.dbufEn = true ∧ c.armed = true
      ∧ c.haltPending = false ∧ c.xferCount.toNat + (64 : BitVec 19).toNat < c.xferLen.toNat
      ∧ (64 : BitVec 19).toNat ≤ c.mps.toNat ∧ c.xferBuf.toNat + c.xferLen.toNat ≤ 2 ^ 32
      ∧ 0x100 = c.bufAddr0.toNat ∧ 0x100 + c.mps.toNat ≤ 2 ^ 16
      ∧ 1 = min c.mps.toNat (c.xferLen.toNat - c.loaded.toNat) := by decide
theorem witness_DbufAckDrainsTheSlotForIn :
    let s := two .FS { doubled with xferLen := 129, loaded := 129 }
    let c := s.chan 1
    (1 : ChanIx).toNat < s.nch ∧ s.variant = .FS ∧ c.dir = .IN ∧ c.dbufEn = true ∧ c.armed = true
      ∧ c.haltPending = false ∧ c.xferCount.toNat + (64 : BitVec 19).toNat < c.xferLen.toNat
      ∧ (64 : BitVec 19).toNat ≤ c.mps.toNat ∧ 0x1000 = c.xferBuf.toNat + c.xferCount.toNat
      ∧ 0x1000 + (64 : BitVec 19).toNat ≤ 2 ^ 32 ∧ 0x100 = c.bufAddr0.toNat
      ∧ 0x100 + (64 : BitVec 19).toNat ≤ 2 ^ 16
      ∧ 0 = min c.mps.toNat (c.xferLen.toNat - c.loaded.toNat) := by decide
theorem witness_DbufAckUnderAPendingHaltIsIgnored :
    let s := two .FS { doubled with haltPending := true }
    (1 : ChanIx).toNat < s.nch ∧ s.variant = .FS ∧ (s.chan 1).dbufEn = true ∧ (s.chan 1).armed = true
      ∧ (s.chan 1).haltPending = true := by decide
/-- Either mode, the last PEV and the last SPEED. -/
theorem witness_PortEventsFollowTheirRules :
    (2, Speed.LS) ∈ [((0 : BitVec 2), Speed.HS), (1, .FS), (2, .LS)] ∧ State.reset.hostMode = true
      ∧ (State.resetOf .FS 1 false).hostMode = false ∧ (4 : BitVec 3).toNat ≤ 4 := by decide

theorem witness_DispatchWithoutIrqChangesNothing :
    irq (pending .FS .NAK { flying with imsk := 0 }) = false
      ∧ irq { pending .FS .NAK flying with hostMode := false } = false := by decide
theorem witness_DispatchServesEveryChannelInOrder :
    (pending .FS .NAK flying).hostMode = true ∧ 0 < (pending .FS .NAK flying).nch
      ∧ ((pending .FS .NAK flying).chan 0).hcint &&& ((pending .FS .NAK flying).chan 0).imsk = 0 := by decide
theorem witness_DispatchTakesOneFlagPerChannel :
    (pending .FS .XFRC flying).hostMode = true ∧ 1 < (pending .FS .XFRC flying).nch
      ∧ NextFlag ((pending .FS .XFRC flying).chan 1) .XFRC
      ∧ (nextOf (exec .dispatch (pending .FS .XFRC flying))).isSome = true ∧ 9 < 10 :=
  ⟨rfl, by decide, nextFlag_pending _ _ rfl rfl, by decide, by decide⟩
/-- Not armed, and with a halt pending. -/
theorem witness_StaleClassificationsAreDiscarded :
    (AloneInDispatch (pending .FS .NYET bulkIn) 1 ∧ NextFlag ((pending .FS .NYET bulkIn).chan 1) .NYET
        ∧ ((pending .FS .NYET bulkIn).chan 1).armed = false)
      ∧ ((pending .FS .NYET { flying with haltPending := true }).chan 1).haltPending = true
      ∧ ChanEvent.NYET ≠ .CHH :=
  ⟨⟨alone_pending _ _ _, nextFlag_pending _ _ rfl rfl, rfl⟩, rfl, by decide⟩
theorem witness_ErrorsClassifyAndRequestAHalt :
    AloneInDispatch (pending .FS .NYET flying) 1 ∧ NextFlag ((pending .FS .NYET flying).chan 1) .NYET
      ∧ (ChanEvent.NYET, ProtoState.NYET) ∈
        [(ChanEvent.STALL, ProtoState.STALL), (.XACTERR, .XACTERR), (.BBLERR, .BBLERR),
          (.DTERR, .DATATGLERR), (.FRMOR, .XACTERR), (.NYET, .NYET)]
      ∧ ((pending .FS .NYET flying).chan 1).armed = true
      ∧ ((pending .FS .NYET flying).chan 1).haltPending = false :=
  ⟨alone_pending _ _ _, nextFlag_pending _ _ rfl rfl, by decide, rfl, rfl⟩
/-- Residual arithmetic in DMA mode with the residual at its bound: no byte moved, one packet, one flip; then the two completions. -/
theorem witness_XfrcCompletesTheTransfer :
    let c := { flying with hcint := eventMask .XFRC, resid := 100 }
    let s := pending (.OTG true) .XFRC { flying with resid := 100 }
    AloneInDispatch s 1 ∧ c = s.chan 1 ∧ NextFlag c .XFRC ∧ c.armed = true ∧ c.haltPending = false
      ∧ c.mps ≠ 0 ∧ c.resid.toNat ≤ c.xferLen.toNat
      ∧ (0 : BitVec 19) = (if c.dir = .OUT ∨ s.variant = .OTG true
          then BitVec.ofNat 19 (c.xferLen.toNat - c.resid.toNat) else c.xferCount)
      ∧ true = (c.tgl0 ^^ decide (packetCount (0 : BitVec 19).toNat c.mps.toNat % 2 = 1))
      ∧ (c.epType = .CTRL ∨ c.epType = .BULK)
      ∧ ((pending .FS .XFRC { flying with epType := .INTR }).chan 1).epType = .INTR :=
  ⟨alone_pending _ _ _, rfl, nextFlag_pending _ _ rfl rfl, rfl, rfl, by decide, by decide, by decide,
    by decide, by decide, rfl⟩
/-- The start-split phase of a split transfer, and an ordinary channel. -/
theorem witness_AckAdvancesASplitOrClearsRetries :
    let c := { flying with doSplit := true, ssplit := true }
    AloneInDispatch (pending (.OTG true) .ACK c) 1
      ∧ NextFlag ((pending (.OTG true) .ACK c).chan 1) .ACK ∧ c.armed = true ∧ c.haltPending = false
      ∧ (c.doSplit = true ∧ c.ssplit = true ∧ ¬ (c.epType = .ISOC ∧ c.dir = .OUT))
      ∧ ¬ (flying.doSplit = true) :=
  ⟨alone_pending _ _ _, nextFlag_pending _ _ rfl rfl, rfl, rfl, by decide, by decide⟩
/-- A bulk channel halts without DMA and is left alone with it. -/
theorem witness_NakHaltsOrIsLeftToHardware :
    AloneInDispatch (pending (.OTG true) .NAK flying) 1
      ∧ NextFlag ((pending (.OTG true) .NAK flying).chan 1) .NAK ∧ flying.armed = true
      ∧ flying.haltPending = false ∧ (pending (.OTG false) .NAK flying).variant ≠ .OTG true
      ∧ ¬ ((pending (.OTG true) .NAK flying).variant ≠ .OTG true ∨ flying.csplit = true) :=
  ⟨alone_pending _ _ _, nextFlag_pending _ _ rfl rfl, rfl, rfl, by decide, by decide⟩
/-- Quiesced, and armed in state IDLE. -/
theorem witness_UnclassifiedChhIsSilent :
    (AloneInDispatch (pending .FS .CHH bulkIn) 1 ∧ NextFlag ((pending .FS .CHH bulkIn).chan 1) .CHH
        ∧ bulkIn.armed = false ∧ bulkIn.haltPending = false)
      ∧ AloneInDispatch (pending .FS .CHH flying) 1 ∧ flying.armed = true ∧ flying.state = .IDLE :=
  ⟨⟨alone_pending _ _ _, nextFlag_pending _ _ rfl rfl, rfl, rfl⟩, alone_pending _ _ _, rfl, rfl⟩
/-- The channel of `flying` after it has requested a halt in state `st`. -/
def halting (st : ProtoState) : Channel := { flying with haltPending := true, state := st }
/-- Its CHH pending, it meets the hypotheses of every statement about a halt confirmation. -/
theorem chh_pending (c : Channel) (h : c.imsk = 0x3FF) :
    AloneInDispatch (pending .FS .CHH c) 1 ∧ NextFlag ((pending .FS .CHH c).chan 1) .CHH :=
  ⟨alone_pending _ _ _, nextFlag_pending _ _ rfl h⟩
theorem witness_ChhReportsDoneStallOrBabble :
    (AloneInDispatch (pending .FS .CHH (halting .XFRC)) 1
        ∧ NextFlag ((pending .FS .CHH (halting .XFRC)).chan 1) .CHH)
      ∧ (AloneInDispatch (pending .FS .CHH (halting .STALL)) 1
        ∧ NextFlag ((pending .FS .CHH (halting .STALL)).chan 1) .CHH)
      ∧ (AloneInDispatch (pending .FS .CHH (halting .BBLERR)) 1
        ∧ NextFlag ((pending .FS .CHH (halting .BBLERR)).chan 1) .CHH)
      ∧ (halting .XFRC).armed = true ∧ (halting .XFRC).state = .XFRC
      ∧ (halting .STALL).armed = true ∧ (halting .STALL).state = .STALL
      ∧ (halting .BBLERR).armed = true ∧ (halting .BBLERR).state = .BBLERR :=
  ⟨chh_pending _ rfl, chh_pending _ rfl, chh_pending _ rfl, rfl, rfl, rfl, rfl, rfl, rfl⟩
/-- The last count that is retried, on a bulk and on an interrupt channel, and the first that is terminal. -/
theorem witness_ThirdErrorIsTerminal :
    let c1 := { halting .DATATGLERR with errCnt := 1 }
    let c2 := { halting .XACTERR with errCnt := 2 }
    (AloneInDispatch (pending .FS .CHH c1) 1 ∧ NextFlag ((pending .FS .CHH c1).chan 1) .CHH)
      ∧ (AloneInDispatch (pending .FS .CHH c2) 1 ∧ NextFlag ((pending .FS .CHH c2).chan 1) .CHH)
      ∧ c1.armed = true ∧ c2.armed = true ∧ c1.state = .DATATGLERR ∧ c2.state = .XACTERR
      ∧ ¬ 2 ≤ c1.errCnt.toNat ∧ 2 ≤ c2.errCnt.toNat
      ∧ c1.epType = .BULK ∧ ¬ (EpType.INTR = .CTRL ∨ EpType.INTR = .BULK) :=
  ⟨chh_pending _ rfl, chh_pending _ rfl, rfl, rfl, rfl, rfl, by decide, by decide, rfl, by decide⟩
theorem witness_ChhAfterNakRetries :
    (AloneInDispatch (pending .FS .CHH (halting .NAK)) 1
        ∧ NextFlag ((pending .FS .CHH (halting .NAK)).chan 1) .CHH)
      ∧ (halting .NAK).armed = true ∧ (halting .NAK).state = .NAK ∧ (halting .NAK).epType = .BULK :=
  ⟨chh_pending _ rfl, rfl, rfl, rfl⟩
theorem witness_ChhAfterSplitAckProgramsTheCompleteSplit :
    let c := { halting .ACK with doSplit := true, csplit := true, epType := .INTR }
    (AloneInDispatch (pending (.OTG false) .CHH c) 1
        ∧ NextFlag ((pending (.OTG false) .CHH c).chan 1) .CHH)
      ∧ c.armed = true ∧ c.state = .ACK :=
  ⟨⟨alone_pending _ _ _, nextFlag_pending _ _ rfl rfl⟩, rfl, rfl⟩
/-- An interrupt channel below and at the limit, and the other endpoint types. -/
theorem witness_ThirdNyetAsksForAReschedule :
    let c1 := { halting .NYET with epType := .INTR, nyetCnt := 1 }
    let c2 := { halting .NYET with epType := .INTR, nyetCnt := 2 }
    (AloneInDispatch (pending .FS .CHH c1) 1 ∧ NextFlag ((pending .FS .CHH c1).chan 1) .CHH)
      ∧ (AloneInDispatch (pending .FS .CHH c2) 1 ∧ NextFlag ((pending .FS .CHH c2).chan 1) .CHH)
      ∧ c1.armed = true ∧ c2.armed = true ∧ c1.state = .NYET ∧ c2.state = .NYET
      ∧ c1.epType = .INTR ∧ ¬ 2 ≤ c1.nyetCnt.toNat ∧ 2 ≤ c2.nyetCnt.toNat
      ∧ (halting .NYET).epType = .BULK :=
  ⟨chh_pending _ rfl, chh_pending _ rfl, rfl, rfl, rfl, rfl, rfl, by decide, by decide, rfl⟩

end Sys2Proof.Tests
end

section
/-! SUPPORT. What one input word and one step can do, each said once: partial-correctness rules for a meaning's answer, the writes a word for one channel is made of, and the inversion of `exec` and of `step` (R15, R17, R73, R93). -/

namespace Sys2Proof.Proofs

open Sys2Proof.Machine Sys2Proof.Laws

/-! ## What a meaning's answer satisfies -/

/-- Every next state that a meaning answers satisfies `P`; a stop satisfies it vacuously. -/
def Ends (P : State → Prop) (r : Result) : Prop := ∀ t, r = .next t → P t

theorem Ends.next {P : State → Prop} {t : State} (h : P t) : Ends P (.next t) := by
  intro t' ht
  cases ht
  exact h

theorem Ends.fault {P : State → Prop} (f : Fault) : Ends P (.fault f) := by
  intro t ht
  cases ht

theorem Ends.ite {P : State → Prop} {p : Prop} [Decidable p] {r₁ r₂ : Result}
    (h₁ : Ends P r₁) (h₂ : Ends P r₂) : Ends P (if p then r₁ else r₂) := by
  split
  · exact h₁
  · exact h₂

/-! ## The writes of a word for one channel -/

/-- One write that the meaning of a word for channel `c` may make: the channel's record, the log, bytes of a memory that exist, or the response (R61, R73, R100). -/
inductive ChannelWrite (c : Nat) : State → State → Prop where
  | putChan (s : State) (r : Channel) : ChannelWrite c s (s.putChan c r)
  | emit (s : State) (rs : List OutRec) : ChannelWrite c s (s.emit rs)
  | store (s : State) (sp : Space) (a : Nat) (bs : List Byte)
      (h : inSpace s.variant sp a bs.length = true) :
      ChannelWrite c s (s.putMem sp (memStore a bs (s.mem sp)))
  | respond (s : State) (w : Word) : ChannelWrite c s { s with resp := some w }

/-- Any number of such writes. -/
abbrev ChannelEffect (c : Nat) : State → State → Prop := Relation.ReflTransGen (ChannelWrite c)

/-- One write leaves everything outside its channel, the log, memory and the response alone. -/
theorem channelWrite_frame {c : Nat} {s t : State} (h : ChannelWrite c s t) :
    ChannelFrame c s t := by
  cases h with
  | putChan r => exact ⟨rfl, by simp, fun j hj => chan_putChan_ne s r hj, rfl, rfl, rfl, rfl, rfl⟩
  | emit rs => exact ⟨rfl, rfl, fun _ _ => rfl, rfl, rfl, rfl, rfl, rfl⟩
  | store sp a bs _ => constructor <;> simp
  | respond w => exact ⟨rfl, rfl, fun _ _ => rfl, rfl, rfl, rfl, rfl, rfl⟩

theorem channelFrame_refl (c : Nat) (s : State) : ChannelFrame c s s :=
  ⟨rfl, rfl, fun _ _ => rfl, rfl, rfl, rfl, rfl, rfl⟩

theorem channelFrame_trans {c : Nat} {s t u : State} (h₁ : ChannelFrame c s t)
    (h₂ : ChannelFrame c t u) : ChannelFrame c s u where
  variant := h₂.variant.trans h₁.variant
  nch := h₂.nch.trans h₁.nch
  others := fun j hj => (h₂.others j hj).trans (h₁.others j hj)
  port := h₂.port.trans h₁.port
  hostMode := h₂.hostMode.trans h₁.hostMode
  fault := h₂.fault.trans h₁.fault
  draws := h₂.draws.trans h₁.draws
  inputs := h₂.inputs.trans h₁.inputs

/-- So do any number of writes. -/
theorem channelEffect_frame {c : Nat} {s t : State} (h : ChannelEffect c s t) :
    ChannelFrame c s t := by
  induction h with
  | refl => exact channelFrame_refl c s
  | tail _ hw ih => exact channelFrame_trans ih (channelWrite_frame hw)

theorem channelEffect_putChan (c : Nat) (s : State) (r : Channel) :
    ChannelEffect c s (s.putChan c r) := .single (.putChan s r)

theorem channelEffect_apply (c : Nat) (s : State) (a : ChanStep) :
    ChannelEffect c s (s.apply c a) := (channelEffect_putChan c s a.ch).tail (.emit _ a.out)

theorem memWrite_effect (c : Nat) {sp : Space} {a : Nat} {bs : List Byte} {s t : State}
    (h : memWrite sp a bs s = .ok t) : ChannelEffect c s t := by
  obtain ⟨hin, rfl⟩ := memWrite_spec h
  exact .single (.store s sp a bs hin)

theorem memCopy_effect (c : Nat) {dst src : Space} {d a n : Nat} {s t : State}
    (h : memCopy dst d src a n s = .ok t) : ChannelEffect c s t := by
  obtain ⟨-, hdst, rfl⟩ := memCopy_spec h
  exact .single (.store s dst d _ (by simpa using hdst))

/-! ## The double-buffer manager (R221 to R224) -/

theorem give_effect {c m : Nat} {b : Bool} {s t : State} (h : give c b m s = .ok t) :
    ChannelEffect c s t := by
  rcases give_spec h with ⟨-, -, hpma, rfl⟩ | ⟨-, rfl⟩
  · refine ((Relation.ReflTransGen.single (.store s .PMA _ _ ?_)).tail (.putChan _ _)).tail
      (.emit _ _)
    simpa using hpma
  · exact (channelEffect_putChan c s _).tail (.emit _ _)

theorem preload_effect {c : Nat} {s t : State} (h : preload c s = .ok t) :
    ChannelEffect c s t := by
  obtain ⟨s0, s1, rfl, hslot0, hslot1⟩ := preload_spec h
  have hs1 := (channelEffect_putChan c s _).trans (give_effect hslot0)
  rcases hslot1 with ⟨-, hslot1⟩ | ⟨-, rfl⟩
  · exact hs1.trans (give_effect hslot1)
  · exact hs1

theorem preloadIfDbuf_effect {c : Nat} {s t : State} (h : preloadIfDbuf c s = .ok t) :
    ChannelEffect c s t := by
  unfold preloadIfDbuf at h
  split at h
  · exact preload_effect h
  · cases h
    exact .refl

theorem refill_effect {c : Nat} {b : Bool} {s t : State} (h : refill c b s = .ok t) :
    ChannelEffect c s t := by
  obtain ⟨s0, s1, rfl, hgive, rfl⟩ := refill_spec h
  have hs0 := channelEffect_putChan c s { s.chan c with fillBusy := true }
  rcases hgive with ⟨-, hgive⟩ | ⟨-, rfl⟩
  · exact (hs0.trans (give_effect hgive)).trans (channelEffect_putChan c s1 _)
  · exact hs0.trans (channelEffect_putChan c _ _)

theorem drainSlot_effect {c n : Nat} {b : Bool} {s t : State} (h : drainSlot c b n s = .ok t) :
    ChannelEffect c s t := by
  unfold drainSlot at h
  split at h
  · exact memCopy_effect c h
  · cases h
    exact .refl

theorem ackTail_effect (c : Nat) (b : Bool) (s : State) :
    Ends (ChannelEffect c s) (ackTail c b s) := by
  unfold ackTail
  refine .ite ?_ (.next (channelEffect_apply c s _))
  cases h : refill c b s with
  | error f => exact .fault f
  | ok s1 => exact .next (refill_effect h)

/-! ## What an instruction can do -/

/-- Everything the meaning of instruction `i` can do to a state: nothing, writes for the channel of its operand, raising the sticky fault with its word, a port event, or one DISPATCH pass in host mode (R73, R93, R240, R250, R262). -/
inductive InstrEffect : Instr → State → State → Prop where
  | nothing (i : Instr) (s : State) : InstrEffect i s s
  | channel {i : Instr} {c : ChanIx} {s t : State} (hi : channelOf i = some c)
      (h : ChannelEffect c.toNat s t) : InstrEffect i s t
  | fault (i : Instr) (s : State) (code : FaultCode) :
      InstrEffect i s (raiseFault code (encode i) s)
  | port (pev : BitVec 3) (sp : BitVec 2) (s : State) (p : Port) (rs : List OutRec) :
      InstrEffect (.evPort pev sp) s ({ s with port := p }.emit rs)
  | dispatch (s : State) (h : s.hostMode = true) :
      InstrEffect .dispatch s { s with
        ch := (demux s.variant 0 s.ch).1
        out := s.out ++ (demux s.variant 0 s.ch).2 }

section Commands

variable {i : Instr} {c : ChanIx} {s : State}

/-- A command ends in its response, whatever it did for its channel before (R100). -/
theorem respond_effect (hi : channelOf i = some c) {s₁ : State}
    (h : ChannelEffect c.toNat s s₁) (st : Status) (data : BitVec 60) :
    Ends (InstrEffect i s) (respond st data s₁) :=
  .next (.channel hi (h.tail (.respond s₁ _)))

/-- A check that fails answers at once (R145). -/
theorem respond_only (hi : channelOf i = some c) (st : Status) (data : BitVec 60) :
    Ends (InstrEffect i s) (respond st data s) := respond_effect hi .refl st data

/-- A command that passed its checks writes its channel's record and answers. -/
theorem respond_putChan (hi : channelOf i = some c) (st : Status) (data : BitVec 60)
    (r : Channel) : Ends (InstrEffect i s) (respond st data (s.putChan c.toNat r)) :=
  respond_effect hi (channelEffect_putChan c.toNat s r) st data

end Commands

section Instructions

variable (c : ChanIx) (s : State)

theorem execConfig_effect (dir : Dir) (et : EpType) (sp : BitVec 2) (da : BitVec 7)
    (en : BitVec 4) (mps : BitVec 11) :
    Ends (InstrEffect (.config c dir et sp da en mps) s) (execConfig c dir et sp da en mps s) := by
  unfold execConfig
  refine .ite (respond_only rfl _ _) <| .ite (respond_only rfl _ _) <| ?_
  cases cfgSpeed s.variant sp mps with
  | none => exact respond_only rfl _ _
  | some spd => exact respond_putChan rfl _ _ _

theorem execConfigDbuf_effect (en : Bool) (b0 b1 : BitVec 16) :
    Ends (InstrEffect (.configDbuf c en b0 b1) s) (execConfigDbuf c en b0 b1 s) := by
  unfold execConfigDbuf
  exact .ite (respond_only rfl _ _) <| .ite (respond_only rfl _ _) <|
    .ite (respond_only rfl _ _) <| .ite (respond_only rfl _ _) <|
    respond_putChan rfl _ _ _

theorem execSubmit_effect (dir : Dir) (et : EpType) (su : Bool) (len : BitVec 19)
    (buf : BitVec 32) :
    Ends (InstrEffect (.submit c dir et su len buf) s) (execSubmit c dir et su len buf s) := by
  unfold execSubmit
  refine .ite (respond_only rfl _ _) <| .ite (respond_only rfl _ _) <|
    .ite (respond_only rfl _ _) <| .ite (respond_only rfl _ _) <|
    .ite (respond_putChan rfl _ _ _) <| ?_
  split
  · exact .fault _
  · next s2 hpre =>
    have hs2 := (channelEffect_putChan c.toNat s _).trans (preloadIfDbuf_effect hpre)
    exact respond_effect rfl (hs2.trans (channelEffect_apply c.toNat s2 _)) _ _

theorem execHalt_effect : Ends (InstrEffect (.halt c) s) (execHalt c s) := by
  unfold execHalt
  exact .ite (respond_only rfl _ _) <| .ite (respond_only rfl _ _) <|
    respond_effect rfl (channelEffect_apply c.toNat s _) _ _

theorem execSetHub_effect (ha hp : BitVec 7) :
    Ends (InstrEffect (.setHub c ha hp) s) (execSetHub c ha hp s) := by
  unfold execSetHub
  exact .ite (respond_only rfl _ _) <| .ite (respond_only rfl _ _) <|
    .ite (respond_only rfl _ _) <| respond_putChan rfl _ _ _

theorem execClearHub_effect : Ends (InstrEffect (.clearHub c) s) (execClearHub c s) := by
  unfold execClearHub
  exact .ite (respond_only rfl _ _) <| .ite (respond_only rfl _ _) <|
    .ite (respond_only rfl _ _) <| respond_putChan rfl _ _ _

theorem execGetUrb_effect : Ends (InstrEffect (.getUrb c) s) (execGetUrb c s) := by
  unfold execGetUrb
  exact .ite (respond_only rfl _ _) <| respond_only rfl _ _

theorem execGetCount_effect : Ends (InstrEffect (.getCount c) s) (execGetCount c s) := by
  unfold execGetCount
  exact .ite (respond_only rfl _ _) <| respond_only rfl _ _

/-- The nine latching events differ in their flag only (R150). -/
theorem latchEvent_effect {i : Instr} (hi : channelOf i = some c) (k : ChanEvent) :
    Ends (InstrEffect i s) (latchEvent k c (encode i) s) := by
  unfold latchEvent
  exact .ite (.next (.fault i s _)) <|
    .next (.channel hi (channelEffect_putChan c.toNat s _))

theorem execEvXfrc_effect (resid : BitVec 19) :
    Ends (InstrEffect (.evXfrc c resid) s) (execEvXfrc c resid s) := by
  unfold execEvXfrc
  exact .ite (.next (.fault _ s _)) <| .ite (.next (.fault _ s _)) <|
    .ite (.next (.fault _ s _)) <|
    .next (.channel rfl (channelEffect_putChan c.toNat s _))

theorem execEvPkt_effect (n : BitVec 19) (more : Bool) :
    Ends (InstrEffect (.evPkt c n more) s) (execEvPkt c n more s) := by
  unfold execEvPkt
  refine .ite (.next (.fault _ s _)) <| .ite (.next (.fault _ s _)) <|
    .ite (.next (.channel rfl (channelEffect_apply c.toNat s _))) <| ?_
  split
  · exact .fault _
  · next s1 hw =>
    exact .next (.channel rfl
      ((memWrite_effect c.toNat hw).trans (channelEffect_apply c.toNat s1 _)))

theorem execEvDbufAck_effect (bufsel : Bool) (n : BitVec 19) :
    Ends (InstrEffect (.evDbufAck c bufsel n) s) (execEvDbufAck c bufsel n s) := by
  unfold execEvDbufAck
  refine .ite (.next (.fault _ s _)) <| .ite (.next (.fault _ s _)) <|
    .ite (.next (.nothing _ s)) <|
    .ite (.next (.channel rfl (channelEffect_apply c.toNat s _))) <| ?_
  split
  · exact .fault _
  · next s1 hdrain =>
    have hcount := (drainSlot_effect hdrain).trans
      (channelEffect_putChan c.toNat s1 (countPacket n (s1.chan c.toNat)))
    intro t ht
    exact .channel rfl (hcount.trans (ackTail_effect _ _ _ t ht))

/-- A port event writes the port record and the log (R251 to R255). -/
theorem portEvent_effect (e : PortEvent) (spd : Speed) :
    ∃ p rs, portEvent e spd s = { s with port := p }.emit rs := by
  cases e with
  | CONNECT => exact ⟨_, _, rfl⟩
  | DISCONNECT => exact ⟨_, _, rfl⟩
  | ENABLE => exact ⟨_, _, rfl⟩
  | DISABLE => exact ⟨_, _, rfl⟩
  | OVERCURRENT =>
    exact ⟨{ s.port with ovrcur := true }, [], by simp [portEvent, portOvercurrent, State.emit]⟩

theorem execEvPort_effect (pev : BitVec 3) (sp : BitVec 2) :
    Ends (InstrEffect (.evPort pev sp) s) (execEvPort pev sp s) := by
  unfold execEvPort
  split
  · next e spd _ _ =>
    refine .ite (.next ?_) <| .next (.nothing _ s)
    obtain ⟨p, rs, hport⟩ := portEvent_effect s e spd
    exact hport ▸ .port pev sp s p rs
  · exact .next (.fault _ s _)
  · exact .next (.fault _ s _)

theorem execDispatch_effect : Ends (InstrEffect .dispatch s) (execDispatch s) := by
  unfold execDispatch
  split
  · next hm => exact .next (.dispatch s hm)
  · exact .next (.nothing _ s)

end Instructions

/-- The inversion of `exec`: what any instruction can do, from any state. -/
theorem exec_effect (i : Instr) (s : State) : Ends (InstrEffect i s) (exec i s) := by
  cases i with
  | config c dir et sp da en mps => exact execConfig_effect c s dir et sp da en mps
  | configDbuf c en b0 b1 => exact execConfigDbuf_effect c s en b0 b1
  | submit c dir et su len buf => exact execSubmit_effect c s dir et su len buf
  | halt c => exact execHalt_effect c s
  | setHub c ha hp => exact execSetHub_effect c s ha hp
  | clearHub c => exact execClearHub_effect c s
  | getUrb c => exact execGetUrb_effect c s
  | getCount c => exact execGetCount_effect c s
  | evXfrc c resid => exact execEvXfrc_effect c s resid
  | evAck c => exact latchEvent_effect c s rfl .ACK
  | evNak c => exact latchEvent_effect c s rfl .NAK
  | evStall c => exact latchEvent_effect c s rfl .STALL
  | evXacterr c => exact latchEvent_effect c s rfl .XACTERR
  | evBblerr c => exact latchEvent_effect c s rfl .BBLERR
  | evDterr c => exact latchEvent_effect c s rfl .DTERR
  | evFrmor c => exact latchEvent_effect c s rfl .FRMOR
  | evNyet c => exact latchEvent_effect c s rfl .NYET
  | evChh c => exact latchEvent_effect c s rfl .CHH
  | evPkt c n more => exact execEvPkt_effect c s n more
  | evDbufAck c bufsel n => exact execEvDbufAck_effect c s bufsel n
  | evPort pev sp => exact execEvPort_effect s pev sp
  | dispatch => exact execDispatch_effect s

/-! ## The step -/

/-- With no input waiting the block waits (R290). -/
theorem step_nil {s : State} (h : s.inputs = []) : step s = .next s := by
  simp only [step, h]

/-- Else it takes the next item (R15). -/
theorem step_cons {s : State} {x : Stimulus} {rest : List Stimulus} (h : s.inputs = x :: rest) :
    step s = takeStimulus x { s with inputs := rest } := by
  simp only [step, h]

/-- A word taken while the fault register is set is dropped (R262). -/
theorem takeWord_faulted {s : State} (w : Word) (d : Draws) (hf : s.fault.valid = true) :
    takeWord w d s = .next (dropWord s) := by
  simp only [takeWord, hf, if_true]

/-- A word that spells no operation raises ILLEGAL_OP (R94, R96). -/
theorem takeWord_illegal {s : State} {w : Word} {e : DecodeError} (d : Draws)
    (hf : s.fault.valid = false) (hd : decode w = .error e) :
    takeWord w d s = .next (raiseFault .ILLEGAL_OP w (beginWord d s)) := by
  simp only [takeWord, hf, hd, Bool.false_eq_true, if_false]

/-- A word that decodes runs its instruction (R96). -/
theorem takeWord_decoded {s : State} {w : Word} {i : Instr} (d : Draws)
    (hf : s.fault.valid = false) (hd : decode w = .ok i) :
    takeWord w d s = exec i (beginWord d s) := by
  simp only [takeWord, hf, hd, Bool.false_eq_true, if_false]

/-- Settles O5: the item is taken, then the word is decoded. -/
theorem stepRunsTheDecodedInstruction : Obligations.StepRunsTheDecodedInstruction := by
  intro s w d rest i hin hf hd
  calc step s = takeWord w d { s with inputs := rest } := step_cons hin
    _ = exec i { s with inputs := rest, draws := d, resp := none } := takeWord_decoded d hf hd

end Sys2Proof.Proofs
end

section
/-! SUPPORT. The parameters VARIANT and NCH (R9, R10, R20): every part of a step keeps them. -/

namespace Sys2Proof.Proofs

open Sys2Proof.Machine Sys2Proof.Laws

/-- The states agree on the variant and on the number of channels (R7, R10). -/
def SameParameters (s t : State) : Prop := t.variant = s.variant ∧ t.nch = s.nch

theorem sameParameters_of_channelFrame {c : Nat} {s t : State} (h : ChannelFrame c s t) :
    SameParameters s t := ⟨h.variant, h.nch⟩

/-- No instruction changes a parameter: a DISPATCH rewrites the channel array, keeping its length. -/
theorem instrEffect_keeps_parameters {i : Instr} {s t : State} (h : InstrEffect i s t) :
    SameParameters s t := by
  cases h with
  | nothing => exact ⟨rfl, rfl⟩
  | channel _ h => exact sameParameters_of_channelFrame (channelEffect_frame h)
  | fault => exact ⟨rfl, rfl⟩
  | port => exact ⟨rfl, rfl⟩
  | dispatch => exact ⟨rfl, demux_length s.variant 0 s.ch⟩

theorem takeWord_keeps_parameters (w : Word) (d : Draws) (s : State) :
    Ends (SameParameters s) (takeWord w d s) := by
  cases hf : s.fault.valid with
  | true =>
    rw [takeWord_faulted w d hf]
    exact .next ⟨rfl, rfl⟩
  | false =>
    cases hd : decode w with
    | error e =>
      rw [takeWord_illegal d hf hd]
      exact .next ⟨rfl, rfl⟩
    | ok i =>
      rw [takeWord_decoded d hf hd]
      intro t ht
      exact instrEffect_keeps_parameters (s := beginWord d s) (exec_effect i _ t ht)

/-- Whatever the next item is, the block's word or an action of the environment, it keeps the parameters. -/
theorem takeStimulus_keeps_parameters (x : Stimulus) (s : State) :
    Ends (SameParameters s) (takeStimulus x s) := by
  cases x with
  | word w d => exact takeWord_keeps_parameters w d s
  | hostMode b => exact .next ⟨rfl, rfl⟩
  | memWrite sp a bs =>
    simp only [takeStimulus]
    split
    · exact .fault _
    · next s1 hw =>
      exact .next (sameParameters_of_channelFrame (channelEffect_frame (memWrite_effect 0 hw)))
  | reset => exact .next ⟨hwReset_variant s, hwReset_nch s⟩

/-- Settles O16, by the inversion of `step` and of `exec`: every named update keeps the variant and the length of the channel array. -/
theorem stepKeepsTheParameters : Obligations.StepKeepsTheParameters := by
  intro s t h
  cases hin : s.inputs with
  | nil =>
    rw [step_nil hin] at h
    cases h
    exact ⟨rfl, rfl⟩
  | cons x rest =>
    rw [step_cons hin] at h
    exact takeStimulus_keeps_parameters x { s with inputs := rest } t h

end Sys2Proof.Proofs
end

section
/-! SUPPORT. The inversion of one step: what the block does with the next item of its input queue (R15, R17, R94, R262, R290). -/

namespace Sys2Proof.Proofs

open Sys2Proof.Machine Sys2Proof.Laws

/-- An answer of a meaning that first checks `p`. -/
theorem Ends.check {P : State → Prop} {p : Prop} [Decidable p] {r₁ r₂ : Result}
    (h₁ : p → Ends P r₁) (h₂ : ¬ p → Ends P r₂) : Ends P (if p then r₁ else r₂) := by
  split
  · exact h₁ ‹_›
  · exact h₂ ‹_›

/-- Everything a step that answers a next state can have done: waited, or taken the head of the queue and dropped a word, refused it, run the instruction it decodes to, or let the environment act. -/
inductive StepEffect (s : State) : State → Prop where
  | wait (hin : s.inputs = []) : StepEffect s s
  | drop {w : Word} {d : Draws} {rest : List Stimulus} (hin : s.inputs = .word w d :: rest)
      (hf : s.fault.valid = true) : StepEffect s (dropWord { s with inputs := rest })
  | illegal {w : Word} {d : Draws} {rest : List Stimulus} (hin : s.inputs = .word w d :: rest)
      (hf : s.fault.valid = false) :
      StepEffect s (raiseFault .ILLEGAL_OP w (beginWord d { s with inputs := rest }))
  | run {w : Word} {d : Draws} {rest : List Stimulus} {i : Instr} {t : State}
      (hin : s.inputs = .word w d :: rest) (hf : s.fault.valid = false)
      (ht : exec i (beginWord d { s with inputs := rest }) = .next t) : StepEffect s t
  | hostMode {b : Bool} {rest : List Stimulus} (hin : s.inputs = .hostMode b :: rest) :
      StepEffect s { s with inputs := rest, hostMode := b }
  | memWrite {sp : Space} {a : Nat} {bs : List Byte} {rest : List Stimulus} {t : State}
      (hin : s.inputs = .memWrite sp a bs :: rest)
      (ht : memWrite sp a bs { s with inputs := rest } = .ok t) : StepEffect s t
  | reset {rest : List Stimulus} (hin : s.inputs = .reset :: rest) :
      StepEffect s (hwReset { s with inputs := rest })

theorem takeWord_effect {s : State} {w : Word} {d : Draws} {rest : List Stimulus}
    (hin : s.inputs = .word w d :: rest) :
    Ends (StepEffect s) (takeWord w d { s with inputs := rest }) := by
  cases hf : s.fault.valid with
  | true =>
    rw [takeWord_faulted (s := { s with inputs := rest }) w d hf]
    exact .next (.drop hin hf)
  | false =>
    cases hd : decode w with
    | error e =>
      rw [takeWord_illegal (s := { s with inputs := rest }) d hf hd]
      exact .next (.illegal hin hf)
    | ok i =>
      rw [takeWord_decoded (s := { s with inputs := rest }) d hf hd]
      exact fun t ht => .run hin hf ht

/-- The inversion of `step`. -/
theorem step_effect (s : State) : Ends (StepEffect s) (step s) := by
  cases hin : s.inputs with
  | nil =>
    rw [step_nil hin]
    exact .next (.wait hin)
  | cons x rest =>
    rw [step_cons hin]
    cases x with
    | word w d => exact takeWord_effect hin
    | hostMode b => exact .next (.hostMode hin)
    | memWrite sp a bs =>
      simp only [takeStimulus]
      split
      · exact .fault _
      · next t ht => exact .next (.memWrite hin ht)
    | reset => exact .next (.reset hin)

end Sys2Proof.Proofs
end

section
/-! SUPPORT. The channel invariant (R48 with the facts that make it inductive), rule by rule: each write that the commands, the events and the handlers make to a record keeps it. -/

namespace Sys2Proof.Proofs

open Sys2Proof.Machine Sys2Proof.Laws

/-- Both halves of the invariant of one channel. -/
structure ChanOk (v : Variant) (c : Channel) : Prop extends ChanInv v c, ChanAux v c

/-- A 2-bit retry counter is at most 3 (R35). -/
theorem retryCount_le (n : BitVec 2) : n.toNat ≤ 3 := Nat.le_of_lt_succ n.isLt

/-- A reset channel meets the invariant, whatever the variant (R48, R49). -/
theorem chanOk_reset (v : Variant) : ChanOk v Channel.reset := by
  constructor <;> constructor <;> simp [Channel.reset, flagSet]

/-! ## Flags -/

theorem eventBit_inj {k k' : ChanEvent} (h : eventBit k = eventBit k') : k = k' := by
  cases k <;> cases k' <;> simp_all [eventBit]

theorem eventBit_lt (k : ChanEvent) : eventBit k < 10 := by
  cases k <;> decide

/-- Writing a flag to 1 writes its bit and no other (R38). -/
theorem getLsbD_setFlag (v : BitVec 10) (k : ChanEvent) (b : Nat) :
    (setFlag v k).getLsbD b = (v.getLsbD b || decide (b = eventBit k)) := by
  have hk := eventBit_lt k
  simp only [setFlag, eventMask, BitVec.getLsbD_or, BitVec.getLsbD_twoPow, hk, decide_true,
    Bool.true_and, eq_comm]

theorem flagSet_setFlag_ne (v : BitVec 10) {k k' : ChanEvent} (h : k' ≠ k) :
    flagSet (setFlag v k) k' = flagSet v k' := by
  have hb : eventBit k' ≠ eventBit k := fun hb => h (eventBit_inj hb)
  simp only [flagSet, getLsbD_setFlag, hb, decide_false, Bool.or_false]

/-- Clearing a flag sets none. -/
theorem flagSet_of_clearFlag {v : BitVec 10} {k k' : ChanEvent}
    (h : flagSet (clearFlag v k) k' = true) : flagSet v k' = true := by
  simp only [flagSet, clearFlag, BitVec.getLsbD_and, Bool.and_eq_true] at h
  exact h.1

/-- A flag that DISPATCH takes is pending (R240). -/
theorem flagSet_of_firstFlag {c : Channel} {k : ChanEvent} (h : firstFlag c = some k) :
    flagSet c.hcint k = true := by
  have hk : flagSet (unmasked c) k = true := List.find?_some h
  rw [flagSet_unmasked, Bool.and_eq_true] at hk
  exact hk.1

/-! ## One write -/

section Writes

variable {v : Variant} {c : Channel}

theorem ChanOk.clearRetries (h : ChanOk v c) : ChanOk v (clearRetries c) :=
  { h with err_le := retryCount_le _, nyet_le := retryCount_le _ }

theorem ChanOk.setTgl (h : ChanOk v c) (b : Bool) : ChanOk v (setTgl b c) := by
  rw [setTgl_eq]
  exact { h with }

theorem ChanOk.toggleAtXfrc (h : ChanOk v c) : ChanOk v (toggleAtXfrc c) := by
  rw [toggleAtXfrc_eq]
  exact { h with }

theorem ChanOk.dropFlag (h : ChanOk v c) (k : ChanEvent) : ChanOk v (dropFlag k c) :=
  { h with resid_le := fun hx => h.resid_le (flagSet_of_clearFlag hx) }

/-- A flag other than XFRC latches with no residual count (R150). -/
theorem ChanOk.latchFlag (h : ChanOk v c) {k : ChanEvent} (hk : k ≠ .XFRC) :
    ChanOk v (latchFlag k c) :=
  { h with resid_le := fun hx => h.resid_le (flagSet_setFlag_ne c.hcint hk.symm ▸ hx) }

/-- XFRC latches with a residual count that was checked (R150). -/
theorem ChanOk.latchXfrc (h : ChanOk v c) {resid : BitVec 19}
    (hr : resid.toNat ≤ c.xferLen.toNat) :
    ChanOk v (Machine.latchFlag .XFRC { c with resid := resid }) :=
  { h with resid_le := fun _ => hr }

theorem ChanOk.setCount (h : ChanOk v c) {n : BitVec 19} (hn : n.toNat ≤ c.xferLen.toNat) :
    ChanOk v { c with xferCount := n } :=
  { h with count_le_len := hn }

/-- A count that stays within the transfer does not wrap (R161, R196, R222). -/
theorem ChanOk.addCount (h : ChanOk v c) {n : BitVec 19}
    (hn : c.xferCount.toNat + n.toNat ≤ c.xferLen.toNat) :
    ChanOk v { c with xferCount := c.xferCount + n } := by
  refine h.setCount ?_
  have hlt := c.xferLen.isLt
  rwa [BitVec.toNat_add, Nat.mod_eq_of_lt (by omega)]

theorem ChanOk.unsplit (h : ChanOk v c) : ChanOk v { c with ssplit := false, csplit := false } :=
  { h with
    not_both_split := fun hs => Bool.noConfusion hs.1
    unsplit_flags := fun _ => ⟨rfl, rfl⟩ }

/-- The protocol state of a channel that is not armed is free (R48). -/
theorem ChanOk.setState (h : ChanOk v c) {st : ProtoState} (hst : c.armed = true → st ≠ .HALTED) :
    ChanOk v { c with state := st } :=
  { h with armed_not_halted := hst }

theorem ChanOk.requestHalt (h : ChanOk v c) (ha : c.armed = true) :
    ChanOk v { c with haltPending := true } :=
  { h with pending_armed := fun _ => ha }

/-- What R48 asks of an armed channel is nothing once it is disarmed with no halt pending. -/
theorem ChanOk.disarm (h : ChanOk v c) (hp : c.haltPending = false) (st : ProtoState) :
    ChanOk v { c with armed := false, state := st } :=
  { h with
    pending_armed := fun hp' => Bool.noConfusion (hp.symm.trans hp')
    armed_configured := fun ha => Bool.noConfusion ha
    armed_not_halted := fun ha => Bool.noConfusion ha }

theorem ChanOk.clearPending (h : ChanOk v c) : ChanOk v { c with haltPending := false } :=
  { h with pending_armed := fun hp => Bool.noConfusion hp }

/-- Only a configured channel is armed (R48). -/
theorem ChanOk.rearm (h : ChanOk v c) (hc : c.configured = true) :
    ChanOk v { c with armed := true, state := .IDLE } :=
  { h with
    pending_armed := fun _ => rfl
    armed_configured := fun _ => hc
    armed_not_halted := fun _ => ProtoState.noConfusion }

/-- The slot bits belong to the FS variant (R37). -/
theorem ChanOk.setSlots (h : ChanOk v c) (hd : c.dbufEn = true) (b : Bool) (n : BitVec 19) :
    ChanOk v { c with swBuf := b, loaded := n } :=
  { h with
    otg_no_dbuf := fun hfs => Bool.noConfusion (hd.symm.trans (h.otg_no_dbuf hfs).1) }

theorem ChanOk.splitNak (h : ChanOk v c) : ChanOk v (splitNak c) := by
  unfold Machine.splitNak
  split
  · next hcs =>
    exact { h with
      not_both_split := fun hs => Bool.noConfusion hs.2
      unsplit_flags := fun hd => Bool.noConfusion (hcs.symm.trans (h.unsplit_flags hd).2) }
  · exact h

/-- Opening a mask that is open changes nothing (R39, R182). -/
theorem ChanOk.openSplitMasks (h : ChanOk v c) : ChanOk v (openSplitMasks c) :=
  { h with
    masks_open := fun hc => by
      show setFlag (setFlag c.imsk .ACK) .NYET = 0x3FF
      rw [h.masks_open hc]
      decide }

end Writes

end Sys2Proof.Proofs
end

section
/-! SUPPORT. Every handler of the channel state machine keeps the channel invariant (R48, R151 to R187), and so does one channel's share of a DISPATCH. -/

namespace Sys2Proof.Proofs

open Sys2Proof.Machine Sys2Proof.Laws

section Parts

variable {v : Variant} {i : Nat} {a : ChanStep}

theorem ChanOk.report (h : ChanOk v a.ch) (u : UrbState) : ChanOk v (report i u a).ch :=
  { h with }

theorem ChanOk.retire (h : ChanOk v a.ch) (ha : a.ch.armed = false) : ChanOk v (retire a).ch :=
  { h.unsplit with
    armed_configured := fun ha' => Bool.noConfusion (ha.symm.trans ha')
    mps_pos := fun hc => Bool.noConfusion hc
    fs_not_hs := fun hc => Bool.noConfusion hc
    masks_open := fun hc => Bool.noConfusion hc }

theorem ChanOk.classify (h : ChanOk v a.ch) (ha : a.ch.armed = true) {st : ProtoState}
    (hst : st ≠ .HALTED) : ChanOk v (classify i st a).ch :=
  (h.setState (st := st) fun _ => hst).requestHalt ha

theorem ChanOk.rearmCtrlBulk (h : ChanOk v a.ch) (hc : a.ch.configured = true) :
    ChanOk v (rearmCtrlBulk i a).ch := by
  rcases rearmCtrlBulk_cases i a with ⟨-, he⟩ | ⟨-, he⟩ <;> rw [he]
  · exact h.rearm hc
  · exact h

end Parts

/-! ## The classifying events on an armed channel -/

section Classifying

variable {v : Variant} {i : Nat} {c : Channel}

/-- The count at XFRC lies within the transfer, because the latched residual count does (R150, R161). -/
theorem ChanOk.countAtXfrc (h : ChanOk v c) (hr : c.resid.toNat ≤ c.xferLen.toNat) :
    ChanOk v (countAtXfrc v c) := by
  rw [countAtXfrc_eq]
  refine h.setCount ?_
  split
  · rw [BitVec.toNat_sub_of_le hr]
    exact Nat.sub_le _ _
  · exact h.count_le_len

theorem countAtXfrc_armed : (Machine.countAtXfrc v c).armed = c.armed := by
  rw [countAtXfrc_eq]

theorem countAtXfrc_haltPending : (Machine.countAtXfrc v c).haltPending = c.haltPending := by
  rw [countAtXfrc_eq]

theorem toggleAtXfrc_armed : (Machine.toggleAtXfrc c).armed = c.armed := by
  rw [toggleAtXfrc_eq]

theorem toggleAtXfrc_haltPending : (Machine.toggleAtXfrc c).haltPending = c.haltPending := by
  rw [toggleAtXfrc_eq]

theorem ChanOk.xfrc (h : ChanOk v c) (ha : c.armed = true) (hp : c.haltPending = false)
    (hr : c.resid.toNat ≤ c.xferLen.toNat) : ChanOk v (xfrc v i c).ch := by
  have hc1 : ChanOk v (Machine.toggleAtXfrc (Machine.countAtXfrc v
      (Machine.dropFlag .NAK (Machine.dropFlag .ACK (Machine.clearRetries c))))) :=
    (((h.clearRetries.dropFlag .ACK).dropFlag .NAK).countAtXfrc hr).toggleAtXfrc
  have hc2 := hc1.unsplit.setState (st := .XFRC) fun _ => ProtoState.noConfusion
  unfold Machine.xfrc
  dsimp only
  split
  · refine hc2.requestHalt ?_
    exact toggleAtXfrc_armed.trans (countAtXfrc_armed.trans ha)
  · have hdone := hc2.disarm
      (toggleAtXfrc_haltPending.trans (countAtXfrc_haltPending.trans hp)) .XFRC
    exact { hdone with }

/-- Only a split transfer is in start-split phase, so `split_ack` gives no unsplit channel a split flag (R200, R201). -/
theorem ChanOk.splitAck (h : ChanOk v c) (ha : c.armed = true) (hd : c.doSplit = true) :
    ChanOk v (splitAck i (ChanStep.start c)).ch := by
  have hphase : ChanOk v { Machine.clearRetries c with ssplit := false, csplit := true } :=
    { h.clearRetries with
      not_both_split := fun hs => Bool.noConfusion hs.1
      unsplit_flags := fun hd' => Bool.noConfusion (hd.symm.trans hd') }
  exact ChanOk.classify (a := ChanStep.start _) hphase ha ProtoState.noConfusion

theorem ChanOk.ack (h : ChanOk v c) (ha : c.armed = true) : ChanOk v (ack i c).ch := by
  unfold Machine.ack
  split
  · next hs => exact h.splitAck ha hs.1
  · exact h.clearRetries

theorem splitNak_armed : (Machine.splitNak c).armed = c.armed := by
  unfold Machine.splitNak
  split <;> rfl

theorem ChanOk.nakHalt (h : ChanOk v c) (ha : c.armed = true) : ChanOk v (nakHalt i c).ch := by
  have hs := (h.setState (st := .NAK) fun _ => ProtoState.noConfusion).splitNak
  exact hs.requestHalt (splitNak_armed.trans ha)

theorem ChanOk.nak (h : ChanOk v c) (ha : c.armed = true) : ChanOk v (nak v i c).ch := by
  have hretry : ChanOk v { c with errCnt := 0 } := { h with err_le := retryCount_le _ }
  unfold Machine.nak
  split
  · exact h.nakHalt ha
  · exact h
  · split
    · exact hretry.nakHalt ha
    · exact hretry
  · split
    · exact hretry.nakHalt ha
    · exact hretry

end Classifying

/-! ## The halt confirmation -/

/-- The channel after CHH has confirmed a halt, on its way through `chhFrom`: disarmed but still configured (R180). -/
structure Quiesced (v : Variant) (c : Channel) : Prop where
  ok : ChanOk v c
  armed : c.armed = false
  configured : c.configured = true

section Confirmation

variable {v : Variant} {i : Nat} {a : ChanStep}

theorem Quiesced.report (h : Quiesced v a.ch) (u : UrbState) : Quiesced v (report i u a).ch :=
  ⟨h.ok.report u, h.armed, h.configured⟩

theorem Quiesced.setErrCnt (h : Quiesced v a.ch) (n : BitVec 2) :
    Quiesced v { a.ch with errCnt := n } :=
  ⟨{ h.ok with err_le := retryCount_le _ }, h.armed, h.configured⟩

theorem Quiesced.setNyetCnt (h : Quiesced v a.ch) (n : BitVec 2) :
    Quiesced v { a.ch with nyetCnt := n } :=
  ⟨{ h.ok with nyet_le := retryCount_le _ }, h.armed, h.configured⟩

theorem Quiesced.retire (h : Quiesced v a.ch) : ChanOk v (retire a).ch := h.ok.retire h.armed

theorem Quiesced.rearmCtrlBulk (h : Quiesced v a.ch) : ChanOk v (rearmCtrlBulk i a).ch :=
  h.ok.rearmCtrlBulk h.configured

theorem Quiesced.rearm (h : Quiesced v a.ch) : ChanOk v (rearm i a).ch := h.ok.rearm h.configured

theorem Quiesced.chhError (h : Quiesced v a.ch) : ChanOk v (chhError i a).ch := by
  have h1 : Quiesced v (a.upd fun c => { c with errCnt := satInc c.errCnt }).ch := h.setErrCnt _
  unfold Machine.chhError
  dsimp only
  split
  · have h2 : Quiesced v ((a.upd fun c => { c with errCnt := satInc c.errCnt }).upd
        fun c => { c with errCnt := 0 }).ch := h1.setErrCnt 0
    exact (h2.report .ERROR).retire
  · exact (h1.report .NOTREADY).rearmCtrlBulk

theorem Quiesced.chhBabble (h : Quiesced v a.ch) : ChanOk v (chhBabble i a).ch := by
  have h1 : Quiesced v (a.upd fun c => { c with errCnt := satInc c.errCnt }).ch := h.setErrCnt _
  exact (h1.report .ERROR).retire

theorem Quiesced.chhAck (h : Quiesced v a.ch) : ChanOk v (chhAck i a).ch := by
  have hmasks : ChanOk v (((Machine.report i .NOTREADY a).emit (.SET_CSPLIT i)).upd
      Machine.openSplitMasks).ch := (h.report (i := i) .NOTREADY).ok.openSplitMasks
  exact hmasks.rearmCtrlBulk h.configured

theorem Quiesced.chhNyetIntr (h : Quiesced v a.ch) : ChanOk v (chhNyetIntr i a).ch := by
  unfold Machine.chhNyetIntr
  dsimp only
  split
  · have hrestart := (h.setNyetCnt 0).ok.unsplit
    exact { hrestart with }
  · exact (ChanOk.report (a := a.upd _) (h.setNyetCnt (satInc a.ch.nyetCnt)).ok .NOTREADY)

theorem Quiesced.chhNyet (h : Quiesced v a.ch) : ChanOk v (chhNyet i a).ch := by
  unfold Machine.chhNyet
  split
  · exact h.chhNyetIntr
  · exact (h.report .NOTREADY).rearm
  · exact (h.report .NOTREADY).rearm
  · exact (h.report .NOTREADY).ok

theorem Quiesced.chhFrom (h : Quiesced v a.ch) (st : ProtoState) :
    ChanOk v (chhFrom st i a).ch := by
  cases st with
  | XFRC => exact (h.report .DONE).ok
  | STALL => exact (h.report .STALL).retire
  | XACTERR => exact h.chhError
  | DATATGLERR => exact h.chhError
  | BBLERR => exact h.chhBabble
  | NAK => exact (h.report .NOTREADY).rearmCtrlBulk
  | ACK => exact h.chhAck
  | NYET => exact h.chhNyet
  | IDLE => exact h.ok
  | HALTED => exact h.ok

end Confirmation

section Dispatch

variable {v : Variant} {i : Nat} {c : Channel}

theorem ChanOk.chh (h : ChanOk v c) : ChanOk v (chh i c).ch := by
  unfold Machine.chh
  split
  · next hq =>
    refine h.setState fun ha => ?_
    exact Bool.noConfusion (hq.1.symm.trans ha)
  · next hq =>
    have ha : c.armed = true := by
      cases hp : c.haltPending with
      | true => exact h.pending_armed hp
      | false => simpa [hp] using hq
    exact Quiesced.chhFrom (a := ChanStep.start _)
      ⟨h.clearPending.disarm rfl .HALTED, rfl, h.armed_configured ha⟩ c.state

/-- Every handler keeps the channel invariant; XFRC needs the residual count that its flag vouches for (R150). -/
theorem ChanOk.handle (h : ChanOk v c) {k : ChanEvent}
    (hr : k = .XFRC → c.resid.toNat ≤ c.xferLen.toNat) : ChanOk v (handle v i k c).ch := by
  by_cases hk : k = .CHH
  · exact hk ▸ h.chh
  by_cases hd : c.armed = false ∨ c.haltPending = true
  · exact handle_discarded hk hd ▸ h
  obtain ⟨ha, hp⟩ : c.armed = true ∧ c.haltPending = false := by simpa using hd
  have hclass : ∀ st, st ≠ .HALTED → ChanOk v (Machine.classify i st (ChanStep.start c)).ch :=
    fun _ hst => ChanOk.classify (a := ChanStep.start c) h ha hst
  cases k <;> simp only [Machine.handle, if_neg hd]
  case CHH => exact absurd rfl hk
  case XFRC => exact h.xfrc ha hp (hr rfl)
  case ACK => exact h.ack ha
  case NAK => exact h.nak ha
  case STALL => exact hclass _ ProtoState.noConfusion
  case XACTERR => exact hclass _ ProtoState.noConfusion
  case BBLERR => exact hclass _ ProtoState.noConfusion
  case DTERR => exact hclass _ ProtoState.noConfusion
  case FRMOR => exact hclass _ ProtoState.noConfusion
  case NYET => exact hclass _ ProtoState.noConfusion

/-- One channel's share of a DISPATCH keeps its invariant (R240). -/
theorem ChanOk.dispatchChan (h : ChanOk v c) : ChanOk v (dispatchChan v i c).ch := by
  cases hf : firstFlag c with
  | none => exact dispatchChan_idle hf ▸ h
  | some k =>
    rw [dispatchChan_flag hf]
    refine (h.dropFlag k).handle ?_
    rintro rfl
    exact h.resid_le (flagSet_of_firstFlag hf)

end Dispatch

end Sys2Proof.Proofs
end

section
/-! SUPPORT. What one instruction can do to a channel record and to the fault register: every write of a record, with the checks that guard it, and the inversion of `exec` into these (R73, R110 to R141, R150, R196, R222, R240, R262). -/

namespace Sys2Proof.Proofs

open Sys2Proof.Machine Sys2Proof.Laws

/-- Everything an instruction can do to the record of a channel on variant `v`, with what the checks before it have established. -/
inductive RecordStep (v : Variant) : Channel → Channel → Prop where
  | keep (c : Channel) : RecordStep v c c
  | config {c : Channel} {sp : BitVec 2} {mps : BitVec 11} {spd : Speed}
      (hunarmed : c.armed = false) (hcfg : cfgSpeed v sp mps = some spd)
      (dir : Dir) (et : EpType) (da : BitVec 7) (en : BitVec 4) :
      RecordStep v c (configure dir et spd da en mps c)
  | configDbuf {c : Channel} {en : Bool} {b0 b1 : BitVec 16} (hconf : c.configured = true)
      (hunarmed : c.armed = false) (hok : en = true → dbufOk v c b0 b1 = true) :
      RecordStep v c (configureDbuf en b0 b1 c)
  | submitFailed {c : Channel} {dir : Dir} {et : EpType} {su : Bool} {len : BitVec 19}
      {buf : BitVec 32} (hconf : c.configured = true) (hunarmed : c.armed = false)
      (hok : subOk v c dir et su len buf = true) (frame : BitVec 16) :
      RecordStep v c { programTransfer dir et su len buf frame c with state := .HALTED }
  | submit {c : Channel} {dir : Dir} {et : EpType} {su : Bool} {len : BitVec 19}
      {buf : BitVec 32} (hconf : c.configured = true) (hunarmed : c.armed = false)
      (hok : subOk v c dir et su len buf = true) (hdbuf : c.dbufEn = false) (frame : BitVec 16) :
      RecordStep v c { programTransfer dir et su len buf frame c with armed := true }
  | submitDbuf {c : Channel} {dir : Dir} {et : EpType} {su : Bool} {len : BitVec 19}
      {buf : BitVec 32} (hconf : c.configured = true) (hunarmed : c.armed = false)
      (hok : subOk v c dir et su len buf = true) (hdbuf : c.dbufEn = true) (frame : BitVec 16)
      (loaded : BitVec 19) :
      RecordStep v c { programTransfer dir et su len buf frame c with
        swBuf := false, loaded := loaded, armed := true }
  | halt {c : Channel} (i : Nat) (hpend : c.haltPending = false) :
      RecordStep v c (haltNow i c).ch
  | route {c : Channel} {split : Bool} (ha hp : BitVec 7)
      (hsplit : split = true → isFs v = false ∧ c.speed ≠ .HS) :
      RecordStep v c (routeHub ha hp split c)
  | latch (c : Channel) {k : ChanEvent} (hk : k ≠ .XFRC) : RecordStep v c (latchFlag k c)
  | latchXfrc {c : Channel} {resid : BitVec 19} (hr : resid.toNat ≤ c.xferLen.toNat) :
      RecordStep v c (latchFlag .XFRC { c with resid := resid })
  | overflow {c : Channel} (i : Nat) (harmed : c.armed = true) :
      RecordStep v c (overflow i c).ch
  | packet {c : Channel} {n : BitVec 19} (i : Nat) (more : Bool) (harmed : c.armed = true)
      (hn : c.xferCount.toNat + n.toNat ≤ c.xferLen.toNat) :
      RecordStep v c (acceptPacket i n more c).ch
  | refill {c : Channel} {n : BitVec 19} (hdbuf : c.dbufEn = true)
      (hn : n.toNat ≤ remaining c) (b : Bool) (loaded : BitVec 19) :
      RecordStep v c { countPacket n c with swBuf := b, loaded := loaded, fillBusy := false }
  | dbufDone {c : Channel} {n : BitVec 19} (i : Nat) (hpend : c.haltPending = false)
      (hn : n.toNat ≤ remaining c) :
      RecordStep v c (dbufDone i (ChanStep.start (countPacket n c))).ch
  | dispatch (i : Nat) (c : Channel) : RecordStep v c (dispatchChan v i c).ch

/-- What a step may do to the fault register: leave it, or set it to a fault that has a name (R262, R263). -/
def FaultStep (s t : State) : Prop :=
  t.fault = s.fault
    ∨ ∃ code w, code ≠ .NONE ∧ t.fault = { valid := true, code := code, word := w }

/-- What an instruction does to the channel records and to the fault register. -/
structure RecordsStep (s t : State) : Prop where
  chan : ∀ j, RecordStep s.variant (s.chan j) (t.chan j)
  fault : FaultStep s t

theorem recordsStep_refl (s : State) : RecordsStep s s := ⟨fun _ => .keep _, .inl rfl⟩

/-- Raising a fault touches no channel record (R262). -/
theorem recordsStep_raiseFault (s : State) {code : FaultCode} (hcode : code ≠ .NONE) (w : Word) :
    RecordsStep s (raiseFault code w s) := ⟨fun _ => .keep _, .inr ⟨code, w, hcode, rfl⟩⟩

/-- A step of one channel is a step of its record (R73). -/
theorem recordsStep_of_frame {c : Nat} {s t : State} (hf : ChannelFrame c s t)
    (hr : RecordStep s.variant (s.chan c) (t.chan c)) : RecordsStep s t where
  chan := fun j => by
    by_cases hj : j = c
    · exact hj ▸ hr
    · rw [hf.others j hj]
      exact .keep _
  fault := .inl hf.fault

theorem recordsStep_putChan {c : Nat} {s : State} (hc : c < s.nch) {r : Channel}
    (hr : RecordStep s.variant (s.chan c) r) : RecordsStep s (s.putChan c r) :=
  recordsStep_of_frame (channelEffect_frame (channelEffect_putChan c s r))
    (by rwa [chan_putChan_self r hc])

theorem recordsStep_apply {c : Nat} {s : State} (hc : c < s.nch) {a : ChanStep}
    (hr : RecordStep s.variant (s.chan c) a.ch) : RecordsStep s (s.apply c a) :=
  recordsStep_of_frame (channelEffect_frame (channelEffect_apply c s a))
    (by rwa [chan_apply_self a hc])

/-- A response touches no channel record and no fault (R100). -/
theorem respond_recordsStep {s t : State} (h : RecordsStep s t) (st : Status) (data : BitVec 60) :
    Ends (RecordsStep s) (respond st data t) := .next ⟨h.chan, h.fault⟩

/-! ## Memory and the double-buffer manager -/

theorem chan_of_memWrite {sp : Space} {a : Nat} {bs : List Byte} {s t : State}
    (h : memWrite sp a bs s = .ok t) (i : Nat) : t.chan i = s.chan i := by
  obtain ⟨-, rfl⟩ := memWrite_spec h
  exact putMem_chan s sp _ i

theorem chan_of_drainSlot {c n : Nat} {b : Bool} {s t : State} (h : drainSlot c b n s = .ok t)
    (i : Nat) : t.chan i = s.chan i := by
  unfold drainSlot at h
  split at h
  · obtain ⟨-, -, rfl⟩ := memCopy_spec h
    exact putMem_chan s .SYS _ i
  · cases h
    rfl

/-- Preload starts with slot 0 and leaves some part of the transfer loaded (R221). -/
theorem chan_of_preload {i : Nat} {s t : State} (hi : i < s.nch) (h : preload i s = .ok t) :
    ∃ n, t.chan i = { s.chan i with swBuf := false, loaded := n } := by
  obtain ⟨s0, s1, rfl, hslot0, hslot1⟩ := preload_spec h
  have hs1 := give_chan (by simpa using hi) hslot0
  rw [chan_putChan_self _ hi] at hs1
  rcases hslot1 with ⟨-, hslot1⟩ | ⟨-, rfl⟩
  · have hi1 : i < s1.nch := by simpa [(give_frame hslot0).2.1] using hi
    have ht := give_chan hi1 hslot1
    rw [hs1] at ht
    exact ⟨_, ht⟩
  · exact ⟨_, hs1⟩

/-- Refill moves the slot bits and leaves `fill_busy` clear (R37, R223). -/
theorem chan_of_refill {i : Nat} {b : Bool} {s t : State} (hi : i < s.nch)
    (h : refill i b s = .ok t) :
    ∃ n, t.chan i = { s.chan i with swBuf := !b, loaded := n, fillBusy := false } := by
  obtain ⟨s0, s1, rfl, hgive, rfl⟩ := refill_spec h
  have hi0 : i < (s.putChan i { s.chan i with fillBusy := true }).nch := by simpa using hi
  rcases hgive with ⟨-, hgive⟩ | ⟨-, rfl⟩
  · have hs1 := give_chan hi0 hgive
    have hi1 : i < s1.nch := (give_frame hgive).2.1 ▸ hi0
    rw [chan_putChan_self _ hi] at hs1
    rw [chan_putChan_self _ hi1, hs1]
    exact ⟨_, rfl⟩
  · rw [chan_putChan_self _ hi0, chan_putChan_self _ hi]
    exact ⟨_, rfl⟩

/-! ## The instructions -/

section Commands

variable {c : ChanIx} {s : State}

/-- A check that fails answers and touches no record (R145). -/
theorem respond_keeps (st : Status) (data : BitVec 60) :
    Ends (RecordsStep s) (respond st data s) := respond_recordsStep (recordsStep_refl s) st data

/-- A command that passed its checks writes its channel's record and answers. -/
theorem respond_writes (hc : c.toNat < s.nch) {r : Channel}
    (hr : RecordStep s.variant (s.chan c.toNat) r) (st : Status) (data : BitVec 60) :
    Ends (RecordsStep s) (respond st data (s.putChan c.toNat r)) :=
  respond_recordsStep (recordsStep_putChan hc hr) st data

end Commands

section Instructions

variable (c : ChanIx) (s : State)

theorem execConfig_records (dir : Dir) (et : EpType) (sp : BitVec 2) (da : BitVec 7)
    (en : BitVec 4) (mps : BitVec 11) :
    Ends (RecordsStep s) (execConfig c dir et sp da en mps s) := by
  unfold execConfig
  refine .check (fun _ => respond_keeps _ _) fun hc => ?_
  refine .check (fun _ => respond_keeps _ _) fun harmed => ?_
  cases hcfg : cfgSpeed s.variant sp mps with
  | none => exact respond_keeps _ _
  | some spd =>
    exact respond_writes (Nat.lt_of_not_le hc)
      (.config (Bool.eq_false_of_not_eq_true harmed) hcfg dir et da en) _ _

theorem execConfigDbuf_records (en : Bool) (b0 b1 : BitVec 16) :
    Ends (RecordsStep s) (execConfigDbuf c en b0 b1 s) := by
  unfold execConfigDbuf
  refine .check (fun _ => respond_keeps _ _) fun hc => ?_
  refine .check (fun _ => respond_keeps _ _) fun hconf => ?_
  refine .check (fun _ => respond_keeps _ _) fun harmed => ?_
  refine .check (fun _ => respond_keeps _ _) fun hok => ?_
  refine respond_writes (Nat.lt_of_not_le hc)
    (.configDbuf (Bool.eq_true_of_not_eq_false hconf) (Bool.eq_false_of_not_eq_true harmed) ?_) _ _
  exact fun hen => Bool.eq_true_of_not_eq_false fun hbad => hok ⟨hen, hbad⟩

/-- SUBMIT writes no double-buffer enable (R121). -/
theorem programTransfer_dbufEn (dir : Dir) (et : EpType) (su : Bool) (len : BitVec 19)
    (buf : BitVec 32) (frame : BitVec 16) (r : Channel) :
    (programTransfer dir et su len buf frame r).dbufEn = r.dbufEn := by
  rw [programTransfer_eq]
  rfl

theorem execSubmit_records (dir : Dir) (et : EpType) (su : Bool) (len : BitVec 19)
    (buf : BitVec 32) : Ends (RecordsStep s) (execSubmit c dir et su len buf s) := by
  unfold execSubmit
  refine .check (fun _ => respond_keeps _ _) fun hnch => ?_
  refine .check (fun _ => respond_keeps _ _) fun hunconf => ?_
  refine .check (fun _ => respond_keeps _ _) fun harmed => ?_
  refine .check (fun _ => respond_keeps _ _) fun hbad => ?_
  have hc := Nat.lt_of_not_le hnch
  have hconf := Bool.eq_true_of_not_eq_false hunconf
  have hunarmed := Bool.eq_false_of_not_eq_true harmed
  have hok := Bool.eq_true_of_not_eq_false hbad
  refine .check (fun _ => respond_writes hc (.submitFailed hconf hunarmed hok _) _ _) fun _ => ?_
  split
  · exact .fault _
  · next s2 hpre =>
    have hput : ChannelFrame c.toNat s _ := channelEffect_frame (channelEffect_putChan c.toNat s
      (programTransfer dir et su len buf s.draws.frame (s.chan c.toNat)))
    have hframe := channelFrame_trans hput (channelEffect_frame (preloadIfDbuf_effect hpre))
    have happly := channelFrame_trans hframe (channelEffect_frame (channelEffect_apply c.toNat s2
      (armSubmitted c.toNat (s2.chan c.toNat))))
    refine respond_recordsStep (recordsStep_of_frame happly ?_) _ _
    rw [chan_apply_self _ (hframe.nch ▸ hc)]
    cases hdbuf : (s.chan c.toNat).dbufEn with
    | false =>
      simp only [preloadIfDbuf, chan_putChan_self _ hc, programTransfer_dbufEn, hdbuf,
        Bool.false_eq_true, if_false, Except.ok.injEq] at hpre
      rw [← hpre, chan_putChan_self _ hc]
      exact .submit hconf hunarmed hok hdbuf _
    | true =>
      simp only [preloadIfDbuf, chan_putChan_self _ hc, programTransfer_dbufEn, hdbuf,
        if_true] at hpre
      obtain ⟨n, hn⟩ := chan_of_preload (hput.nch ▸ hc) hpre
      rw [hn, chan_putChan_self _ hc]
      exact .submitDbuf hconf hunarmed hok hdbuf _ n

theorem execHalt_records : Ends (RecordsStep s) (execHalt c s) := by
  unfold execHalt
  refine .check (fun _ => respond_keeps _ _) fun hc => ?_
  refine .check (fun _ => respond_keeps _ _) fun hlive => ?_
  refine respond_recordsStep (recordsStep_apply (Nat.lt_of_not_le hc) (.halt _ ?_)) _ _
  exact Bool.eq_false_of_not_eq_true fun hp => hlive (.inr hp)

theorem execSetHub_records (ha hp : BitVec 7) :
    Ends (RecordsStep s) (execSetHub c ha hp s) := by
  unfold execSetHub
  refine .check (fun _ => respond_keeps _ _) fun hc => ?_
  refine .check (fun _ => respond_keeps _ _) fun _ => ?_
  refine .check (fun _ => respond_keeps _ _) fun _ => ?_
  refine respond_writes (Nat.lt_of_not_le hc) (.route ha hp fun hsplit => ?_) _ _
  simpa using hsplit

theorem execClearHub_records : Ends (RecordsStep s) (execClearHub c s) := by
  unfold execClearHub
  refine .check (fun _ => respond_keeps _ _) fun hc => ?_
  refine .check (fun _ => respond_keeps _ _) fun _ => ?_
  refine .check (fun _ => respond_keeps _ _) fun _ => ?_
  exact respond_writes (Nat.lt_of_not_le hc) (.route 0 0 Bool.noConfusion) _ _

theorem execGetUrb_records : Ends (RecordsStep s) (execGetUrb c s) :=
  .ite (respond_keeps _ _) (respond_keeps _ _)

theorem execGetCount_records : Ends (RecordsStep s) (execGetCount c s) :=
  .ite (respond_keeps _ _) (respond_keeps _ _)

theorem latchEvent_records {k : ChanEvent} (hk : k ≠ .XFRC) (w : Word) :
    Ends (RecordsStep s) (latchEvent k c w s) :=
  .check (fun _ => .next (recordsStep_raiseFault s FaultCode.noConfusion w))
    fun hc => .next (recordsStep_putChan (Nat.lt_of_not_le hc) (.latch _ hk))

theorem execEvXfrc_records (resid : BitVec 19) :
    Ends (RecordsStep s) (execEvXfrc c resid s) := by
  unfold execEvXfrc
  refine .check (fun _ => .next (recordsStep_raiseFault s FaultCode.noConfusion _)) fun hc => ?_
  refine .ite (.next (recordsStep_raiseFault s FaultCode.noConfusion _)) ?_
  refine .check (fun _ => .next (recordsStep_raiseFault s FaultCode.noConfusion _)) fun hr => ?_
  exact .next (recordsStep_putChan (Nat.lt_of_not_le hc) (.latchXfrc (Nat.le_of_not_lt hr)))

theorem execEvPkt_records (n : BitVec 19) (more : Bool) :
    Ends (RecordsStep s) (execEvPkt c n more s) := by
  unfold execEvPkt
  refine .check (fun _ => .next (recordsStep_raiseFault s FaultCode.noConfusion _)) fun hnch => ?_
  refine .check (fun _ => .next (recordsStep_raiseFault s FaultCode.noConfusion _))
    fun hexpected => ?_
  have hc := Nat.lt_of_not_le hnch
  have harmed : (s.chan c.toNat).armed = true :=
    Bool.eq_true_of_not_eq_false fun ha => hexpected (.inr (.inr (.inr ha)))
  refine .check (fun _ => .next (recordsStep_apply hc (.overflow _ harmed))) fun hfits => ?_
  split
  · exact .fault _
  · next s1 hw =>
    have hframe := channelEffect_frame (memWrite_effect c.toNat hw)
    refine .next (recordsStep_of_frame
      (channelFrame_trans hframe (channelEffect_frame (channelEffect_apply c.toNat s1 _))) ?_)
    rw [chan_apply_self _ (hframe.nch ▸ hc), chan_of_memWrite hw]
    exact .packet _ more harmed (Nat.le_of_not_lt hfits)

theorem execEvDbufAck_records (bufsel : Bool) (n : BitVec 19) :
    Ends (RecordsStep s) (execEvDbufAck c bufsel n s) := by
  unfold execEvDbufAck
  refine .check (fun _ => .next (recordsStep_raiseFault s FaultCode.noConfusion _)) fun hnch => ?_
  refine .check (fun _ => .next (recordsStep_raiseFault s FaultCode.noConfusion _))
    fun hexpected => ?_
  refine .check (fun _ => .next (recordsStep_refl s)) fun hpend' => ?_
  have hc := Nat.lt_of_not_le hnch
  have hpend := Bool.eq_false_of_not_eq_true hpend'
  have hdbuf : (s.chan c.toNat).dbufEn = true :=
    Bool.eq_true_of_not_eq_false fun hd => hexpected (.inr (.inl hd))
  have harmed : (s.chan c.toNat).armed = true :=
    Bool.eq_true_of_not_eq_false fun ha => hexpected (.inr (.inr ha))
  refine .check (fun _ => .next (recordsStep_apply hc (.overflow _ harmed))) fun hfits => ?_
  have hn : n.toNat ≤ remaining (s.chan c.toNat) := Nat.le_of_not_lt fun hlt => hfits (.inl hlt)
  split
  · exact .fault _
  · next s1 hdrain =>
    have hdrained := channelEffect_frame (drainSlot_effect hdrain)
    have hc1 : c.toNat < s1.nch := hdrained.nch ▸ hc
    rw [chan_of_drainSlot hdrain]
    generalize hs2 : s1.putChan c.toNat (countPacket n (s.chan c.toNat)) = s2
    have hcounted : ChannelFrame c.toNat s s2 := hs2 ▸
      channelFrame_trans hdrained (channelEffect_frame (channelEffect_putChan c.toNat s1 _))
    have hchan : s2.chan c.toNat = countPacket n (s.chan c.toNat) :=
      hs2 ▸ chan_putChan_self _ hc1
    have hc2 : c.toNat < s2.nch := hcounted.nch ▸ hc
    intro t ht
    refine recordsStep_of_frame (channelFrame_trans hcounted
      (channelEffect_frame (ackTail_effect _ _ _ t ht))) ?_
    unfold ackTail at ht
    split at ht
    · split at ht
      · cases ht
      · next s3 hrefill =>
        cases ht
        obtain ⟨l, hl⟩ := chan_of_refill hc2 hrefill
        rw [hl, hchan]
        exact .refill hdbuf hn _ l
    · cases ht
      rw [chan_apply_self _ hc2, hchan]
      exact .dbufDone _ hpend hn

theorem execEvPort_records (pev : BitVec 3) (sp : BitVec 2) :
    Ends (RecordsStep s) (execEvPort pev sp s) := by
  unfold execEvPort
  split
  · next e spd _ _ =>
    refine .ite (.next ?_) (.next (recordsStep_refl s))
    obtain ⟨p, rs, hport⟩ := portEvent_effect s e spd
    exact hport ▸ ⟨fun _ => .keep _, .inl rfl⟩
  · exact .next (recordsStep_raiseFault s FaultCode.noConfusion _)
  · exact .next (recordsStep_raiseFault s FaultCode.noConfusion _)

/-- Each channel takes its own share of the pass (R240). -/
theorem execDispatch_records : Ends (RecordsStep s) (execDispatch s) := by
  cases hm : s.hostMode with
  | false =>
    rw [execDispatch_device hm]
    exact .next (recordsStep_refl s)
  | true =>
    rw [execDispatch_host hm]
    refine .next ⟨fun j => ?_, .inl rfl⟩
    simp only [State.chan, List.getD_eq_getElem?_getD, demux_getElem?, Nat.zero_add]
    cases s.ch[j]? with
    | none => exact .keep _
    | some r => exact .dispatch j r

end Instructions

/-- The inversion of `exec` at the channel records and the fault register, from any state. -/
theorem exec_records (i : Instr) (s : State) : Ends (RecordsStep s) (exec i s) := by
  cases i with
  | config c dir et sp da en mps => exact execConfig_records c s dir et sp da en mps
  | configDbuf c en b0 b1 => exact execConfigDbuf_records c s en b0 b1
  | submit c dir et su len buf => exact execSubmit_records c s dir et su len buf
  | halt c => exact execHalt_records c s
  | setHub c ha hp => exact execSetHub_records c s ha hp
  | clearHub c => exact execClearHub_records c s
  | getUrb c => exact execGetUrb_records c s
  | getCount c => exact execGetCount_records c s
  | evXfrc c resid => exact execEvXfrc_records c s resid
  | evAck c => exact latchEvent_records c s ChanEvent.noConfusion _
  | evNak c => exact latchEvent_records c s ChanEvent.noConfusion _
  | evStall c => exact latchEvent_records c s ChanEvent.noConfusion _
  | evXacterr c => exact latchEvent_records c s ChanEvent.noConfusion _
  | evBblerr c => exact latchEvent_records c s ChanEvent.noConfusion _
  | evDterr c => exact latchEvent_records c s ChanEvent.noConfusion _
  | evFrmor c => exact latchEvent_records c s ChanEvent.noConfusion _
  | evNyet c => exact latchEvent_records c s ChanEvent.noConfusion _
  | evChh c => exact latchEvent_records c s ChanEvent.noConfusion _
  | evPkt c n more => exact execEvPkt_records c s n more
  | evDbufAck c bufsel n => exact execEvDbufAck_records c s bufsel n
  | evPort pev sp => exact execEvPort_records s pev sp
  | dispatch => exact execDispatch_records s

end Sys2Proof.Proofs
end

section
/-! SUPPORT. The invariant of the block (R48): reset meets it, and every step keeps it. -/

namespace Sys2Proof.Proofs

open Sys2Proof.Machine Sys2Proof.Laws

/-! ## Channels -/

section Records

variable {v : Variant} {c : Channel}

/-- What the check of CONFIG vouches for (R111). -/
theorem cfgSpeed_some {sp : BitVec 2} {mps : BitVec 11} {spd : Speed}
    (h : cfgSpeed v sp mps = some spd) : mps ≠ 0 ∧ (isFs v = true → spd ≠ .HS) := by
  unfold cfgSpeed at h
  split at h
  · cases h
  · next spd' _ =>
    split at h
    · cases h
    · next hbad =>
      cases h
      exact ⟨fun hm => hbad (.inl hm), fun hfs hhs => hbad (.inr ⟨hfs, hhs⟩)⟩

theorem isBulkIsoc_iff (et : EpType) : isBulkIsoc et = true ↔ et = .BULK ∨ et = .ISOC := by
  cases et <;> decide

/-- What the check of CONFIG_DBUF vouches for (R116). -/
theorem dbufOk_iff {b0 b1 : BitVec 16} :
    dbufOk v c b0 b1 = true ↔
      v = .FS ∧ (c.epType = .BULK ∨ c.epType = .ISOC) ∧ b0.toNat % 2 = 0 ∧ b1.toNat % 2 = 0
        ∧ b0.toNat + c.mps.toNat ≤ 2 ^ 16 ∧ b1.toNat + c.mps.toNat ≤ 2 ^ 16
        ∧ (b0.toNat + c.mps.toNat ≤ b1.toNat ∨ b1.toNat + c.mps.toNat ≤ b0.toNat) := by
  simp only [dbufOk, slotsApart, Bool.and_eq_true, decide_eq_true_eq, isFs_iff, isBulkIsoc_iff,
    and_assoc]

/-- What the check of SUBMIT vouches for (R122). -/
theorem subOk_bounds {dir : Dir} {et : EpType} {su : Bool} {len : BitVec 19} {buf : BitVec 32}
    (h : subOk v c dir et su len buf = true) :
    (su = true → et = .CTRL ∧ dir = .OUT) ∧ (c.dbufEn = true → et = .BULK ∨ et = .ISOC)
      ∧ buf.toNat + len.toNat ≤ 2 ^ 32 := by
  simp only [subOk, Bool.and_eq_true, Bool.or_eq_true, Bool.not_eq_true', decide_eq_true_eq,
    isBulkIsoc_iff] at h
  obtain ⟨⟨⟨hsu, hdbuf⟩, -⟩, hbuf⟩ := h
  refine ⟨fun hs => hsu.resolve_left ?_, fun hd => hdbuf.resolve_left ?_, hbuf⟩
  · simp [hs]
  · simp [hd]

theorem chanOk_configure (h : ChanOk v c) (hunarmed : c.armed = false) {sp : BitVec 2}
    {mps : BitVec 11} {spd : Speed} (hcfg : cfgSpeed v sp mps = some spd) (dir : Dir)
    (et : EpType) (da : BitVec 7) (en : BitVec 4) :
    ChanOk v (configure dir et spd da en mps c) := by
  obtain ⟨hmps, hspd⟩ := cfgSpeed_some hcfg
  exact { chanOk_reset v with
    pending_armed := h.pending_armed
    armed_configured := fun _ => rfl
    armed_not_halted := fun ha => Bool.noConfusion (hunarmed.symm.trans ha)
    mps_pos := fun _ => hmps
    split_otg := Bool.noConfusion
    dbuf_fs := Bool.noConfusion
    fs_not_hs := fun _ => hspd
    masks_open := fun _ => rfl
    slots_in_pma := Bool.noConfusion
    setup_ctrl_out := Bool.noConfusion }

theorem chanOk_configureDbuf (h : ChanOk v c) {en : Bool} {b0 b1 : BitVec 16}
    (hok : en = true → dbufOk v c b0 b1 = true) : ChanOk v (configureDbuf en b0 b1 c) := by
  cases en with
  | false =>
    exact { h with
      dbuf_fs := Bool.noConfusion
      slots_in_pma := Bool.noConfusion
      otg_no_dbuf := fun _ => ⟨rfl, rfl, rfl, rfl, rfl⟩
      not_filling := rfl }
  | true =>
    obtain ⟨hv, het, heven0, heven1, hend0, hend1, hapart⟩ := dbufOk_iff.1 (hok rfl)
    exact { h with
      dbuf_fs := fun _ => ⟨hv, het⟩
      slots_in_pma := fun _ => ⟨hend0, hend1, heven0, heven1, hapart⟩
      otg_no_dbuf := fun hfs => Bool.noConfusion (((isFs_iff v).2 hv).symm.trans hfs)
      not_filling := rfl }

/-- The record SUBMIT programs, before it asks the transceiver to start (R120 to R124). -/
theorem chanOk_programTransfer (h : ChanOk v c) {dir : Dir} {et : EpType} {su : Bool}
    {len : BitVec 19} {buf : BitVec 32} (hok : subOk v c dir et su len buf = true)
    (frame : BitVec 16) : ChanOk v (programTransfer dir et su len buf frame c) := by
  obtain ⟨hsu, hdbuf, hbuf⟩ := subOk_bounds hok
  rw [programTransfer_eq]
  exact { h with
    count_le_len := Nat.zero_le _
    not_both_split := fun hs => by
      have hcs : c.csplit = true := hs.2
      have hss : (if c.doSplit = true ∧ c.csplit = false then true else c.ssplit) = true := hs.1
      rw [hcs, if_neg (by simp)] at hss
      exact h.not_both_split ⟨hss, hcs⟩
    armed_not_halted := fun _ => ProtoState.noConfusion
    dbuf_fs := fun hd => ⟨(h.dbuf_fs hd).1, hdbuf hd⟩
    resid_le := fun hx => by simp [submittedRecord, flagSet] at hx
    buffer_in_sys := hbuf
    unsplit_flags := fun hd => by
      have hd' : c.doSplit = false := hd
      simpa [submittedRecord, hd'] using h.unsplit_flags hd'
    setup_ctrl_out := hsu }

theorem chanOk_routeHub (h : ChanOk v c) (ha hp : BitVec 7) {split : Bool}
    (hsplit : split = true → isFs v = false ∧ c.speed ≠ .HS) :
    ChanOk v (routeHub ha hp split c) :=
  { h.unsplit with
    split_otg := hsplit
    unsplit_flags := fun _ => ⟨rfl, rfl⟩ }

theorem chanOk_overflow (h : ChanOk v c) (i : Nat) (ha : c.armed = true) :
    ChanOk v (overflow i c).ch := by
  unfold overflow
  split
  · exact h
  · exact ChanOk.classify (a := ChanStep.start c) h ha ProtoState.noConfusion

theorem chanOk_acceptPacket (h : ChanOk v c) (i : Nat) (more : Bool) {n : BitVec 19}
    (ha : c.armed = true) (hn : c.xferCount.toNat + n.toNat ≤ c.xferLen.toNat) :
    ChanOk v (acceptPacket i n more c).ch := by
  have hcount : ChanOk v (clearRetries { c with xferCount := c.xferCount + n }) :=
    (h.addCount hn).clearRetries
  have htoggle : ∀ b, ChanOk v
      { clearRetries { c with xferCount := c.xferCount + n } with toggleIn := b } :=
    fun _ => { hcount with }
  have hconf := h.armed_configured ha
  unfold acceptPacket
  dsimp only
  split
  · split
    · split
      · exact hcount
      · exact hcount.rearm hconf
    · split
      · exact htoggle _
      · exact (htoggle _).rearm hconf
  · exact hcount

/-- A packet no larger than what remains keeps the count within the transfer (R32, R222). -/
theorem chanOk_countPacket (h : ChanOk v c) {n : BitVec 19} (hn : n.toNat ≤ remaining c) :
    ChanOk v (countPacket n c) := by
  have hle := h.count_le_len
  have hadd : c.xferCount.toNat + n.toNat ≤ c.xferLen.toNat := by
    unfold remaining at hn
    omega
  have hcount := (h.addCount hadd).clearRetries
  unfold countPacket
  dsimp only
  split
  · exact hcount
  · exact hcount.setTgl _

/-- An acknowledged packet changes the count, the retry counters and the toggle only (R222). -/
theorem countPacket_eq (n : BitVec 19) (c : Channel) :
    ∃ tin tout, countPacket n c = { c with
      xferCount := c.xferCount + n, errCnt := 0, nyetCnt := 0, toggleIn := tin, toggleOut := tout } := by
  unfold countPacket
  dsimp only
  split
  · exact ⟨_, _, rfl⟩
  · rw [setTgl_eq]
    exact ⟨_, _, rfl⟩

/-- Every write an instruction makes to a record keeps the channel invariant (R48). -/
theorem recordStep_keeps_chanOk {c' : Channel} (hstep : RecordStep v c c') (h : ChanOk v c) :
    ChanOk v c' := by
  cases hstep with
  | keep => exact h
  | config hunarmed hcfg => exact chanOk_configure h hunarmed hcfg ..
  | configDbuf _ _ hok => exact chanOk_configureDbuf h hok
  | submitFailed _ hunarmed hok frame =>
    refine (chanOk_programTransfer h hok frame).setState fun ha => ?_
    rw [programTransfer_eq] at ha
    exact Bool.noConfusion (hunarmed.symm.trans ha)
  | submit hconf _ hok _ frame =>
    have hp := chanOk_programTransfer h hok frame
    rw [programTransfer_eq] at hp ⊢
    exact hp.rearm hconf
  | submitDbuf hconf _ hok hdbuf frame n =>
    have hp := chanOk_programTransfer h hok frame
    rw [programTransfer_eq] at hp ⊢
    exact (hp.setSlots hdbuf false n).rearm hconf
  | halt _ hpend => exact (h.disarm hpend .HALTED).unsplit
  | route ha hp hsplit => exact chanOk_routeHub h ha hp hsplit
  | latch _ hk => exact h.latchFlag hk
  | latchXfrc hr => exact h.latchXfrc hr
  | overflow i ha => exact chanOk_overflow h i ha
  | packet i more ha hn => exact chanOk_acceptPacket h i more ha hn
  | @refill _ n hdbuf hn b l =>
    have hcount := chanOk_countPacket h hn
    obtain ⟨tin, tout, he⟩ := countPacket_eq n c
    rw [he] at hcount ⊢
    exact { hcount.setSlots hdbuf b l with not_filling := rfl }
  | @dbufDone _ n i hpend hn =>
    have hcount := chanOk_countPacket h hn
    obtain ⟨tin, tout, he⟩ := countPacket_eq n c
    rw [he] at hcount ⊢
    exact ChanOk.report (a := ((ChanStep.start _).upd _).emit _) (hcount.disarm hpend .XFRC) .DONE
  | dispatch i => exact h.dispatchChan

end Records

/-! ## Memory -/

/-- What the invariant asks of the memories: the canonical form, and none of packet memory on the OTG variant (R60, R61). -/
structure MemoryOk (s : State) : Prop where
  form : MemoryForm s
  pma_fs : isFs s.variant = false → s.pma = []

/-- Writing bytes that exist keeps the canonical form, and on the OTG variant no byte of packet memory exists (R60, R61). -/
theorem memoryOk_store {s : State} (h : MemoryOk s) {sp : Space} {a : Nat} {bs : List Byte}
    (hin : inSpace s.variant sp a bs.length = true) :
    MemoryOk (s.putMem sp (memStore a bs (s.mem sp))) := by
  have hbound := inSpace_length hin
  obtain ⟨⟨hsys, hpma⟩, hfs⟩ := h
  cases sp with
  | SYS => exact ⟨⟨wf_memStore bs hbound hsys, hpma⟩, hfs⟩
  | PMA =>
    refine ⟨⟨hsys, wf_memStore bs hbound hpma⟩, fun hotg => ?_⟩
    have hotg' : isFs s.variant = false := hotg
    simp [inSpace, hotg'] at hin

theorem channelWrite_keeps_memoryOk {c : Nat} {s t : State} (hw : ChannelWrite c s t)
    (h : MemoryOk s) : MemoryOk t := by
  cases hw with
  | putChan => exact ⟨h.form, h.pma_fs⟩
  | emit => exact ⟨h.form, h.pma_fs⟩
  | store sp a bs hin => exact memoryOk_store h hin
  | respond => exact ⟨h.form, h.pma_fs⟩

theorem instrEffect_keeps_memoryOk {i : Instr} {s t : State} (he : InstrEffect i s t)
    (h : MemoryOk s) : MemoryOk t := by
  cases he with
  | nothing => exact h
  | channel _ hc =>
    induction hc with
    | refl => exact h
    | tail _ hw ih => exact channelWrite_keeps_memoryOk hw ih
  | fault => exact ⟨h.form, h.pma_fs⟩
  | port => exact ⟨h.form, h.pma_fs⟩
  | dispatch => exact ⟨h.form, h.pma_fs⟩

/-! ## The input queue -/

/-- No instruction touches what waits at the input (R15). -/
theorem instrEffect_inputs {i : Instr} {s t : State} (he : InstrEffect i s t) :
    t.inputs = s.inputs := by
  cases he with
  | nothing => rfl
  | channel _ hc => exact (channelEffect_frame hc).inputs
  | fault => rfl
  | port => rfl
  | dispatch => rfl

/-! ## The block -/

theorem chanOk_of_inv {s : State} (h : Inv s) {i : Nat} (hi : i < s.nch) :
    ChanOk s.variant (s.chan i) := ⟨h.chans i hi, h.aux i hi⟩

theorem memoryOk_of_inv {s : State} (h : Inv s) : MemoryOk s := ⟨⟨h.sys_wf, h.pma_wf⟩, h.pma_fs⟩

/-- An update that changes neither the parameters nor the input queue keeps the invariant where it keeps each part of it. -/
theorem inv_of_parts {s t : State} (h : Inv s) (hp : SameParameters s t)
    (hch : ∀ i, i < t.nch → ChanOk t.variant (t.chan i)) (hmem : MemoryOk t)
    (hfault : FaultStep s t) (hin : t.inputs = s.inputs) : Inv t where
  nch_pos := hp.2 ▸ h.nch_pos
  nch_le := hp.2 ▸ h.nch_le
  chans := fun i hi => (hch i hi).toChanInv
  aux := fun i hi => (hch i hi).toChanAux
  sys_wf := hmem.form.1
  pma_wf := hmem.form.2
  pma_fs := hmem.pma_fs
  fault_clear := by
    rcases hfault with hf | ⟨code, w, -, hf⟩ <;> rw [hf]
    · exact h.fault_clear
    · exact Bool.noConfusion
  fault_named := by
    rcases hfault with hf | ⟨code, w, hcode, hf⟩ <;> rw [hf]
    · exact h.fault_named
    · exact fun _ => hcode
  inputs_ok := by
    rw [hin, hp.1]
    exact h.inputs_ok

/-- Every instruction keeps the invariant. -/
theorem exec_keeps_inv (i : Instr) {s : State} (h : Inv s) : Ends Inv (exec i s) := by
  intro t ht
  have heffect := exec_effect i s t ht
  have hrecords := exec_records i s t ht
  have hp := instrEffect_keeps_parameters heffect
  refine inv_of_parts h hp (fun j hj => ?_) (instrEffect_keeps_memoryOk heffect (memoryOk_of_inv h))
    hrecords.fault (instrEffect_inputs heffect)
  rw [hp.1]
  exact recordStep_keeps_chanOk (hrecords.chan j) (chanOk_of_inv h (hp.2 ▸ hj))

/-- After a reset every channel holds its reset record (R49). -/
theorem hwReset_chan (s : State) (i : Nat) : (hwReset s).chan i = Channel.reset := by
  simp only [State.chan, hwReset_ch, List.getD_eq_getElem?_getD, List.getElem?_map]
  cases s.ch[i]? <;> rfl

theorem hwReset_keeps_inv {s : State} (h : Inv s) : Inv (hwReset s) where
  nch_pos := (hwReset_nch s).symm ▸ h.nch_pos
  nch_le := (hwReset_nch s).symm ▸ h.nch_le
  chans := fun i _ => hwReset_chan s i ▸ (chanOk_reset s.variant).toChanInv
  aux := fun i _ => hwReset_chan s i ▸ (chanOk_reset s.variant).toChanAux
  sys_wf := h.sys_wf
  pma_wf := h.pma_wf
  pma_fs := h.pma_fs
  fault_clear := fun _ => rfl
  fault_named := Bool.noConfusion
  inputs_ok := h.inputs_ok

/-- Bytes that another agent writes where memory exists keep the invariant (R61, R63). -/
theorem memWrite_keeps_inv {s t : State} {sp : Space} {a : Nat} {bs : List Byte} (h : Inv s)
    (ht : memWrite sp a bs s = .ok t) : Inv t := by
  obtain ⟨hspace, rfl⟩ := memWrite_spec ht
  refine inv_of_parts h ⟨putMem_variant s sp _, putMem_nch s sp _⟩ (fun i hi => ?_)
    (memoryOk_store (memoryOk_of_inv h) hspace) (.inl (putMem_fault s sp _))
    (putMem_inputs s sp _)
  rw [putMem_variant, putMem_chan]
  exact chanOk_of_inv h (putMem_nch s sp _ ▸ hi)

/-- Taking an item from the queue leaves the rest of it waiting. -/
theorem inv_taken {s : State} {x : Stimulus} {rest : List Stimulus} (h : Inv s)
    (hin : s.inputs = x :: rest) : Inv { s with inputs := rest } :=
  { h with inputs_ok := fun y hy => h.inputs_ok y (hin ▸ List.mem_cons_of_mem x hy) }

/-- A word brings its draws (R16). -/
theorem inv_beginWord {s : State} (d : Draws) (h : Inv s) : Inv (beginWord d s) := { h with }

/-- Settles O13, by the inversion of `step` and of `exec`: every write of a record keeps R48 together with the facts of `ChanAux`. -/
theorem stepKeepsTheInvariant : Obligations.StepKeepsTheInvariant := by
  intro s t h hstep
  cases step_effect s t hstep with
  | wait => exact h
  | drop hin => exact { inv_taken h hin with }
  | illegal hin =>
    exact { inv_taken h hin with
      fault_clear := Bool.noConfusion
      fault_named := fun _ => FaultCode.noConfusion }
  | run hin _ ht => exact exec_keeps_inv _ (inv_beginWord _ (inv_taken h hin)) t ht
  | hostMode hin => exact { inv_taken h hin with }
  | memWrite hin ht => exact memWrite_keeps_inv (inv_taken h hin) ht
  | reset hin => exact hwReset_keeps_inv (inv_taken h hin)

/-- The state after reset meets the invariant, whatever the parameters (R7, R49). -/
theorem inv_resetOf (v : Variant) {n : Nat} (m : Bool) (h1 : 1 ≤ n) (h16 : n ≤ 16) :
    Inv (State.resetOf v n m) := by
  have hnch : (State.resetOf v n m).nch = n := List.length_replicate
  have hchan : ∀ i, i < (State.resetOf v n m).nch →
      (State.resetOf v n m).chan i = Channel.reset := fun i hi =>
    List.eq_of_mem_replicate (chan_mem hi)
  exact {
    nch_pos := hnch.symm ▸ h1
    nch_le := hnch.symm ▸ h16
    chans := fun i hi => hchan i hi ▸ (chanOk_reset v).toChanInv
    aux := fun i hi => hchan i hi ▸ (chanOk_reset v).toChanAux
    sys_wf := rfl
    pma_wf := rfl
    pma_fs := fun _ => rfl
    fault_clear := fun _ => rfl
    fault_named := Bool.noConfusion
    inputs_ok := List.forall_mem_nil _ }

/-- Settles O12: `State.reset` is one of the reset states, all of which meet the invariant. -/
theorem resetMeetsTheInvariant : Obligations.ResetMeetsTheInvariant :=
  ⟨inv_resetOf (.OTG false) true (by decide) (by decide), fun v _ m h1 h16 => inv_resetOf v m h1 h16⟩

end Sys2Proof.Proofs
end

section
/-! SUPPORT. What no step but a reset undoes: a set fault register (R44, R262), the output log (R45) and an open mask (R39, R316). -/

namespace Sys2Proof.Proofs

open Sys2Proof.Machine Sys2Proof.Laws

/-- A queue whose head is no reset does not start with one. -/
theorem head_ne_reset {s : State} {rest : List Stimulus} (h : s.inputs.head? ≠ some .reset) :
    s.inputs ≠ .reset :: rest := by
  intro hin
  exact h (hin ▸ rfl)

/-! ## The fault register -/

/-- Another agent's write touches no register (R63). -/
theorem fault_of_memWrite {s t : State} {sp : Space} {a : Nat} {bs : List Byte}
    (h : memWrite sp a bs s = .ok t) : t.fault = s.fault := by
  obtain ⟨-, rfl⟩ := memWrite_spec h
  exact putMem_fault s sp _

/-- Settles O8: while the register is set a word is dropped, and no other item of the queue but a reset writes the register. -/
theorem onlyResetClearsTheFault : Obligations.OnlyResetClearsTheFault := by
  intro s t hset hnr hstep
  cases step_effect s t hstep with
  | wait => rfl
  | drop => rfl
  | illegal _ hf => exact Bool.noConfusion (hset.symm.trans hf)
  | run _ hf => exact Bool.noConfusion (hset.symm.trans hf)
  | hostMode => rfl
  | memWrite _ ht => rw [fault_of_memWrite ht]
  | reset hin => exact absurd hin (head_ne_reset hnr)

/-! ## The output log -/

theorem channelWrite_out {c : Nat} {s t : State} (h : ChannelWrite c s t) : s.out <+: t.out := by
  cases h with
  | putChan => exact List.prefix_rfl
  | emit rs => exact List.prefix_append s.out rs
  | store sp a bs => rw [putMem_out]
  | respond => exact List.prefix_rfl

/-- An instruction only appends to the log (R45). -/
theorem instrEffect_out {i : Instr} {s t : State} (h : InstrEffect i s t) : s.out <+: t.out := by
  cases h with
  | nothing => exact List.prefix_rfl
  | channel _ hc =>
    induction hc with
    | refl => exact List.prefix_rfl
    | tail _ hw ih => exact ih.trans (channelWrite_out hw)
  | fault => exact List.prefix_rfl
  | port => exact List.prefix_append s.out _
  | dispatch => exact List.prefix_append s.out _

theorem out_of_memWrite {s t : State} {sp : Space} {a : Nat} {bs : List Byte}
    (h : memWrite sp a bs s = .ok t) : t.out = s.out := by
  obtain ⟨-, rfl⟩ := memWrite_spec h
  exact putMem_out s sp _

theorem stepEffect_out {s t : State} (hnr : s.inputs.head? ≠ some .reset)
    (h : StepEffect s t) : s.out <+: t.out := by
  cases h with
  | wait => exact List.prefix_rfl
  | drop => exact List.prefix_rfl
  | illegal => exact List.prefix_rfl
  | run _ _ ht =>
    have hrun := instrEffect_out (exec_effect _ _ t ht)
    exact hrun
  | hostMode => exact List.prefix_rfl
  | memWrite _ ht => rw [out_of_memWrite ht]
  | reset hin => exact absurd hin (head_ne_reset hnr)

/-- Settles O17, by the inversion of `step` and of `exec`: the only write of the log is `emit`. -/
theorem outputLogOnlyGrows : Obligations.OutputLogOnlyGrows := by
  intro s t hnr hstep
  obtain ⟨rs, hrs⟩ := stepEffect_out hnr (step_effect s t hstep)
  exact ⟨rs, hrs.symm⟩

/-! ## The masks -/

/-- Every mask bit that was open is open still. -/
def MaskGrows (c c' : Channel) : Prop :=
  ∀ k, c.imsk.getLsbD k = true → c'.imsk.getLsbD k = true

theorem maskGrows_of_eq {c c' : Channel} (h : c'.imsk = c.imsk) : MaskGrows c c' :=
  fun _ hk => h ▸ hk

/-- CONFIG opens every mask (R39). -/
theorem maskGrows_of_open {c c' : Channel} (h : c'.imsk = 0x3FF) : MaskGrows c c' := by
  intro k hk
  have hk10 : k < 10 := BitVec.lt_of_getLsbD hk
  rw [h]
  interval_cases k <;> rfl

theorem maskGrows_openSplitMasks (c : Channel) : MaskGrows c (openSplitMasks c) := by
  intro k hk
  simp only [openSplitMasks, getLsbD_setFlag, hk, Bool.true_or]

theorem splitNak_imsk (c : Channel) : (splitNak c).imsk = c.imsk := by
  unfold splitNak
  split <;> rfl

theorem countAtXfrc_imsk (v : Variant) (c : Channel) : (countAtXfrc v c).imsk = c.imsk := by
  rw [countAtXfrc_eq]

theorem toggleAtXfrc_imsk (c : Channel) : (toggleAtXfrc c).imsk = c.imsk := by
  rw [toggleAtXfrc_eq]

theorem xfrc_imsk (v : Variant) (i : Nat) (c : Channel) : (xfrc v i c).ch.imsk = c.imsk := by
  have hcount := (toggleAtXfrc_imsk _).trans
    (countAtXfrc_imsk v (dropFlag .NAK (dropFlag .ACK (clearRetries c))))
  unfold xfrc
  generalize toggleAtXfrc _ = c1 at hcount ⊢
  dsimp only
  split
  · exact hcount
  · exact hcount

theorem ack_imsk (i : Nat) (c : Channel) : (Machine.ack i c).ch.imsk = c.imsk := by
  unfold Machine.ack
  split <;> rfl

theorem nakHalt_imsk (i : Nat) (c : Channel) : (nakHalt i c).ch.imsk = c.imsk :=
  splitNak_imsk { c with state := .NAK }

theorem nak_imsk (v : Variant) (i : Nat) (c : Channel) : (nak v i c).ch.imsk = c.imsk := by
  unfold nak
  split
  · exact nakHalt_imsk i c
  · rfl
  · split
    · exact nakHalt_imsk i { c with errCnt := 0 }
    · rfl
  · split
    · exact nakHalt_imsk i { c with errCnt := 0 }
    · rfl

theorem rearmCtrlBulk_imsk (i : Nat) (a : ChanStep) :
    (rearmCtrlBulk i a).ch.imsk = a.ch.imsk := by
  rcases rearmCtrlBulk_cases i a with ⟨-, h⟩ | ⟨-, h⟩ <;> rw [h]
  rfl

theorem chhError_imsk (i : Nat) (a : ChanStep) : (chhError i a).ch.imsk = a.ch.imsk := by
  unfold chhError
  dsimp only
  split
  · rfl
  · exact rearmCtrlBulk_imsk i _

theorem chhNyet_imsk (i : Nat) (a : ChanStep) : (chhNyet i a).ch.imsk = a.ch.imsk := by
  unfold chhNyet
  split
  · unfold chhNyetIntr
    dsimp only
    split <;> rfl
  · rfl
  · rfl
  · rfl

/-- The halt confirmation of a start-split ACK is the one handler that writes a mask (R182). -/
theorem maskGrows_chhFrom (st : ProtoState) (i : Nat) (a : ChanStep) :
    MaskGrows a.ch (chhFrom st i a).ch := by
  cases st with
  | ACK =>
    intro k hk
    rw [show chhFrom .ACK i a = chhAck i a from rfl, chhAck, rearmCtrlBulk_imsk]
    exact maskGrows_openSplitMasks (report i .NOTREADY a).ch k hk
  | XACTERR => exact maskGrows_of_eq (chhError_imsk i a)
  | DATATGLERR => exact maskGrows_of_eq (chhError_imsk i a)
  | NAK => exact maskGrows_of_eq (rearmCtrlBulk_imsk i _)
  | NYET => exact maskGrows_of_eq (chhNyet_imsk i a)
  | XFRC => exact maskGrows_of_eq rfl
  | STALL => exact maskGrows_of_eq rfl
  | BBLERR => exact maskGrows_of_eq rfl
  | IDLE => exact maskGrows_of_eq rfl
  | HALTED => exact maskGrows_of_eq rfl

theorem maskGrows_chh (i : Nat) (c : Channel) : MaskGrows c (chh i c).ch := by
  unfold chh
  split
  · exact maskGrows_of_eq rfl
  · intro k hk
    exact maskGrows_chhFrom c.state i (ChanStep.start _) k hk

theorem maskGrows_handle (v : Variant) (i : Nat) (k : ChanEvent) (c : Channel) :
    MaskGrows c (handle v i k c).ch := by
  by_cases hk : k = .CHH
  · exact hk ▸ maskGrows_chh i c
  by_cases hd : c.armed = false ∨ c.haltPending = true
  · rw [handle_discarded hk hd]
    exact maskGrows_of_eq rfl
  cases k <;> simp only [handle, if_neg hd]
  case CHH => exact absurd rfl hk
  case XFRC => exact maskGrows_of_eq (xfrc_imsk v i c)
  case ACK => exact maskGrows_of_eq (ack_imsk i c)
  case NAK => exact maskGrows_of_eq (nak_imsk v i c)
  case STALL => exact maskGrows_of_eq rfl
  case XACTERR => exact maskGrows_of_eq rfl
  case BBLERR => exact maskGrows_of_eq rfl
  case DTERR => exact maskGrows_of_eq rfl
  case FRMOR => exact maskGrows_of_eq rfl
  case NYET => exact maskGrows_of_eq rfl

theorem maskGrows_dispatchChan (v : Variant) (i : Nat) (c : Channel) :
    MaskGrows c (dispatchChan v i c).ch := by
  cases hf : firstFlag c with
  | none =>
    rw [dispatchChan_idle hf]
    exact maskGrows_of_eq rfl
  | some k =>
    rw [dispatchChan_flag hf]
    exact maskGrows_handle v i k (dropFlag k c)

theorem programTransfer_imsk (dir : Dir) (et : EpType) (su : Bool) (len : BitVec 19)
    (buf : BitVec 32) (frame : BitVec 16) (c : Channel) :
    (programTransfer dir et su len buf frame c).imsk = c.imsk := by
  rw [programTransfer_eq]
  rfl

theorem overflow_imsk (i : Nat) (c : Channel) : (overflow i c).ch.imsk = c.imsk := by
  unfold overflow
  split <;> rfl

theorem acceptPacket_imsk (i : Nat) (n : BitVec 19) (more : Bool) (c : Channel) :
    (acceptPacket i n more c).ch.imsk = c.imsk := by
  unfold acceptPacket
  dsimp only
  split
  · split <;> split <;> rfl
  · rfl

theorem countPacket_imsk (n : BitVec 19) (c : Channel) : (countPacket n c).imsk = c.imsk := by
  obtain ⟨tin, tout, h⟩ := countPacket_eq n c
  rw [h]

/-- No write of a record closes a mask: CONFIG and the halt confirmation of a split ACK open some, the others write none. -/
theorem recordStep_grows_mask {v : Variant} {c c' : Channel} (h : RecordStep v c c') :
    MaskGrows c c' := by
  cases h with
  | config => exact maskGrows_of_open rfl
  | dispatch i => exact maskGrows_dispatchChan v i c
  | keep => exact maskGrows_of_eq rfl
  | configDbuf => exact maskGrows_of_eq rfl
  | submitFailed => exact maskGrows_of_eq (programTransfer_imsk ..)
  | submit => exact maskGrows_of_eq (programTransfer_imsk ..)
  | submitDbuf => exact maskGrows_of_eq (programTransfer_imsk ..)
  | halt => exact maskGrows_of_eq rfl
  | route => exact maskGrows_of_eq rfl
  | latch => exact maskGrows_of_eq rfl
  | latchXfrc => exact maskGrows_of_eq rfl
  | overflow => exact maskGrows_of_eq (overflow_imsk ..)
  | packet => exact maskGrows_of_eq (acceptPacket_imsk ..)
  | refill => exact maskGrows_of_eq (countPacket_imsk ..)
  | dbufDone => exact maskGrows_of_eq (countPacket_imsk ..)

/-- Settles O19, by the inversion of `step` and of `exec`: no write of a record closes a mask. -/
theorem noStepNarrowsAMask : Obligations.NoStepNarrowsAMask := by
  intro s t i k hnr hstep hk
  cases step_effect s t hstep with
  | wait => exact hk
  | drop => exact hk
  | illegal => exact hk
  | run _ _ ht => exact recordStep_grows_mask ((exec_records _ _ t ht).chan i) k hk
  | hostMode => exact hk
  | memWrite _ ht =>
    rw [chan_of_memWrite ht]
    exact hk
  | reset hin => exact absurd hin (head_ne_reset hnr)

end Sys2Proof.Proofs
end

section
/-! SUPPORT. The output log is write-only (R45): records that stand before the log of a state pass unchanged through every operation, and nothing else of its result depends on them. -/

namespace Sys2Proof.Proofs

open Sys2Proof.Machine Sys2Proof.Laws

/-- The state with the records `o` standing before its output log. -/
def prefixLog (o : List OutRec) (s : State) : State := { s with out := o ++ s.out }

/-- The same for an answer. -/
def prefixResult (o : List OutRec) : Result → Result
  | .next s => .next (prefixLog o s)
  | .fault f => .fault f
  | .refused r => .refused r

/-- Of two answers, the second is the first with the records `o` before the log. -/
def Shifted (o : List OutRec) (r r' : Result) : Prop := r' = prefixResult o r

section Operations

variable {o : List OutRec} {s : State}

theorem prefixLog_putChan (i : Nat) (c : Channel) :
    (prefixLog o s).putChan i c = prefixLog o (s.putChan i c) := rfl

theorem prefixLog_emit (rs : List OutRec) :
    (prefixLog o s).emit rs = prefixLog o (s.emit rs) := by
  simp only [prefixLog, State.emit, List.append_assoc]

theorem prefixLog_apply (i : Nat) (a : ChanStep) :
    (prefixLog o s).apply i a = prefixLog o (s.apply i a) := prefixLog_emit (s := s.putChan i a.ch) a.out

theorem prefixLog_putMem (sp : Space) (m : Memory) :
    (prefixLog o s).putMem sp m = prefixLog o (s.putMem sp m) := by
  cases sp <;> rfl

theorem memWrite_prefixLog (sp : Space) (a : Nat) (bs : List Byte) :
    memWrite sp a bs (prefixLog o s) = (memWrite sp a bs s).map (prefixLog o) := by
  have hmem : (prefixLog o s).mem sp = s.mem sp := by cases sp <;> rfl
  have hvariant : (prefixLog o s).variant = s.variant := rfl
  simp only [memWrite, hmem, hvariant, prefixLog_putMem]
  split <;> rfl

theorem memRead_prefixLog (sp : Space) (a n : Nat) :
    memRead sp a n (prefixLog o s) = memRead sp a n s := by
  cases sp <;> rfl

theorem memCopy_prefixLog (dst : Space) (d : Nat) (src : Space) (a n : Nat) :
    memCopy dst d src a n (prefixLog o s) = (memCopy dst d src a n s).map (prefixLog o) := by
  simp only [memCopy, memRead_prefixLog, memWrite_prefixLog]
  split <;> rfl

theorem give_prefixLog (i : Nat) (b : Bool) (m : Nat) :
    give i b m (prefixLog o s) = (give i b m s).map (prefixLog o) := by
  have hchan : (prefixLog o s).chan i = s.chan i := rfl
  simp only [give, hchan, memCopy_prefixLog]
  split
  · cases memCopy .PMA (bufAddr (s.chan i) b) .SYS
      ((s.chan i).xferBuf.toNat + (s.chan i).loaded.toNat) m s with
    | error f => rfl
    | ok s1 => exact congrArg Except.ok (prefixLog_emit (s := s1.putChan i _) _)
  · exact congrArg Except.ok (prefixLog_emit (s := s.putChan i _) _)

theorem preload_prefixLog (i : Nat) :
    preload i (prefixLog o s) = (preload i s).map (prefixLog o) := by
  have hchan : ∀ t : State, (prefixLog o t).chan i = t.chan i := fun _ => rfl
  simp only [preload, prefixLog_putChan, hchan, give_prefixLog]
  cases give i false _ (s.putChan i { s.chan i with swBuf := false, loaded := 0 }) with
  | error f => rfl
  | ok s1 =>
    simp only [Except.map, hchan, give_prefixLog]
    split <;> rfl

theorem preloadIfDbuf_prefixLog (i : Nat) :
    preloadIfDbuf i (prefixLog o s) = (preloadIfDbuf i s).map (prefixLog o) := by
  have hchan : (prefixLog o s).chan i = s.chan i := rfl
  simp only [preloadIfDbuf, hchan, preload_prefixLog]
  split <;> rfl

theorem refill_prefixLog (i : Nat) (b : Bool) :
    refill i b (prefixLog o s) = (refill i b s).map (prefixLog o) := by
  have hchan : ∀ t : State, (prefixLog o t).chan i = t.chan i := fun _ => rfl
  simp only [refill, prefixLog_putChan, hchan, give_prefixLog]
  generalize s.putChan i { s.chan i with fillBusy := true } = s0
  by_cases hmore : (s0.chan i).loaded.toNat < (s0.chan i).xferLen.toNat
  · simp only [if_pos hmore]
    cases give i b (nextPart (s0.chan i)) s0 <;> rfl
  · simp only [if_neg hmore]
    rfl

theorem drainSlot_prefixLog (i : Nat) (b : Bool) (n : Nat) :
    drainSlot i b n (prefixLog o s) = (drainSlot i b n s).map (prefixLog o) := by
  have hchan : (prefixLog o s).chan i = s.chan i := rfl
  simp only [drainSlot, hchan, memCopy_prefixLog]
  split <;> rfl

end Operations

/-! ## Answers -/

section Answers

variable {o : List OutRec} {s : State}

theorem Shifted.next {t t' : State} (h : t' = prefixLog o t) : Shifted o (.next t) (.next t') :=
  congrArg Host.Outcome.next h

/-- Both runs take the same branch, since no check reads the log. -/
theorem Shifted.ite {p : Prop} [Decidable p] {r₁ r₂ r₁' r₂' : Result} (h₁ : Shifted o r₁ r₁')
    (h₂ : Shifted o r₂ r₂') : Shifted o (if p then r₁ else r₂) (if p then r₁' else r₂') := by
  split
  · exact h₁
  · exact h₂

theorem Shifted.apply (i : Nat) (a : ChanStep) :
    Shifted o (.next (s.apply i a)) (.next ((prefixLog o s).apply i a)) :=
  .next (prefixLog_apply i a)

theorem Shifted.keep : Shifted o (.next s) (.next (prefixLog o s)) := rfl

theorem Shifted.raise (code : FaultCode) (w : Word) :
    Shifted o (.next (raiseFault code w s)) (.next (raiseFault code w (prefixLog o s))) := rfl

theorem Shifted.putChan (i : Nat) (c : Channel) :
    Shifted o (.next (s.putChan i c)) (.next ((prefixLog o s).putChan i c)) := rfl

theorem Shifted.respond (st : Status) (data : BitVec 60) :
    Shifted o (respond st data s) (respond st data (prefixLog o s)) := rfl

theorem Shifted.respondApply (st : Status) (data : BitVec 60) (i : Nat) (a : ChanStep) :
    Shifted o (Machine.respond st data (s.apply i a))
      (Machine.respond st data ((prefixLog o s).apply i a)) := by
  rw [prefixLog_apply]
  exact .respond st data

theorem ackTail_shifted (i : Nat) (b : Bool) :
    Shifted o (ackTail i b s) (ackTail i b (prefixLog o s)) := by
  unfold ackTail
  refine .ite ?_ (.apply i _)
  rw [refill_prefixLog]
  cases refill i b s with
  | error f => rfl
  | ok s1 => rfl

end Answers

/-! ## The instructions -/

section Instructions

variable (o : List OutRec) (c : ChanIx) (s : State)

theorem execConfig_shifted (dir : Dir) (et : EpType) (sp : BitVec 2) (da : BitVec 7)
    (en : BitVec 4) (mps : BitVec 11) :
    Shifted o (execConfig c dir et sp da en mps s)
      (execConfig c dir et sp da en mps (prefixLog o s)) := by
  unfold execConfig
  refine .ite (.respond _ _) <| .ite (.respond _ _) ?_
  have hvariant : (prefixLog o s).variant = s.variant := rfl
  rw [hvariant]
  cases cfgSpeed s.variant sp mps with
  | none => rfl
  | some spd => rfl

theorem execConfigDbuf_shifted (en : Bool) (b0 b1 : BitVec 16) :
    Shifted o (execConfigDbuf c en b0 b1 s) (execConfigDbuf c en b0 b1 (prefixLog o s)) :=
  .ite (.respond _ _) <| .ite (.respond _ _) <| .ite (.respond _ _) <| .ite (.respond _ _) <|
    .respond _ _

theorem execSubmit_shifted (dir : Dir) (et : EpType) (su : Bool) (len : BitVec 19)
    (buf : BitVec 32) :
    Shifted o (execSubmit c dir et su len buf s)
      (execSubmit c dir et su len buf (prefixLog o s)) := by
  unfold execSubmit
  refine .ite (.respond _ _) <| .ite (.respond _ _) <| .ite (.respond _ _) <|
    .ite (.respond _ _) <| .ite (.respond _ _) ?_
  rw [prefixLog_putChan, preloadIfDbuf_prefixLog]
  have hsame : ∀ t : State, (prefixLog o t).chan c.toNat = t.chan c.toNat := fun _ => rfl
  have hdraws : (prefixLog o s).draws = s.draws := rfl
  rw [hsame, hdraws]
  cases preloadIfDbuf c.toNat (s.putChan c.toNat _) with
  | error f => rfl
  | ok s2 => exact .respondApply _ _ _ _

theorem execHalt_shifted : Shifted o (execHalt c s) (execHalt c (prefixLog o s)) :=
  .ite (.respond _ _) <| .ite (.respond _ _) <| .respondApply _ _ _ _

theorem execSetHub_shifted (ha hp : BitVec 7) :
    Shifted o (execSetHub c ha hp s) (execSetHub c ha hp (prefixLog o s)) :=
  .ite (.respond _ _) <| .ite (.respond _ _) <| .ite (.respond _ _) <| .respond _ _

theorem execClearHub_shifted : Shifted o (execClearHub c s) (execClearHub c (prefixLog o s)) :=
  .ite (.respond _ _) <| .ite (.respond _ _) <| .ite (.respond _ _) <| .respond _ _

theorem execGetUrb_shifted : Shifted o (execGetUrb c s) (execGetUrb c (prefixLog o s)) :=
  .ite (.respond _ _) (.respond _ _)

theorem execGetCount_shifted : Shifted o (execGetCount c s) (execGetCount c (prefixLog o s)) :=
  .ite (.respond _ _) (.respond _ _)

theorem latchEvent_shifted (k : ChanEvent) (w : Word) :
    Shifted o (latchEvent k c w s) (latchEvent k c w (prefixLog o s)) :=
  .ite (.raise _ _) (.putChan _ _)

theorem execEvXfrc_shifted (resid : BitVec 19) :
    Shifted o (execEvXfrc c resid s) (execEvXfrc c resid (prefixLog o s)) :=
  .ite (.raise _ _) <| .ite (.raise _ _) <| .ite (.raise _ _) <| .putChan _ _

theorem execEvPkt_shifted (n : BitVec 19) (more : Bool) :
    Shifted o (execEvPkt c n more s) (execEvPkt c n more (prefixLog o s)) := by
  unfold execEvPkt
  refine .ite (.raise _ _) <| .ite (.raise _ _) <| .ite (.apply _ _) ?_
  rw [memWrite_prefixLog]
  have hsame : ∀ t : State, (prefixLog o t).chan c.toNat = t.chan c.toNat := fun _ => rfl
  have hdraws : (prefixLog o s).draws = s.draws := rfl
  rw [hsame, hdraws]
  cases memWrite .SYS (nextAddr (s.chan c.toNat)) (rxBytes s.draws n.toNat) s with
  | error f => rfl
  | ok s1 => exact .apply _ _

theorem execEvDbufAck_shifted (bufsel : Bool) (n : BitVec 19) :
    Shifted o (execEvDbufAck c bufsel n s) (execEvDbufAck c bufsel n (prefixLog o s)) := by
  unfold execEvDbufAck
  refine .ite (.raise _ _) <| .ite (.raise _ _) <| .ite .keep <| .ite (.apply _ _) ?_
  rw [drainSlot_prefixLog]
  cases drainSlot c.toNat bufsel n.toNat s with
  | error f => rfl
  | ok s1 => exact ackTail_shifted _ _

/-- A port event reads the port record only (R251 to R255). -/
theorem portEvent_prefixLog (e : PortEvent) (spd : Speed) :
    portEvent e spd (prefixLog o s) = prefixLog o (portEvent e spd s) := by
  cases e with
  | CONNECT => exact prefixLog_emit (s := { s with port := _ }) _
  | DISCONNECT => exact prefixLog_emit (s := { s with port := _ }) _
  | ENABLE => exact prefixLog_emit (s := { s with port := _ }) _
  | DISABLE => exact prefixLog_emit (s := { s with port := _ }) _
  | OVERCURRENT => rfl

theorem execEvPort_shifted (pev : BitVec 3) (sp : BitVec 2) :
    Shifted o (execEvPort pev sp s) (execEvPort pev sp (prefixLog o s)) := by
  unfold execEvPort
  cases portEventOfCode pev with
  | none => exact .raise _ _
  | some e =>
    cases speedOfCode sp with
    | none => exact .raise _ _
    | some spd => exact .ite (.next (portEvent_prefixLog o s e spd)) .keep

theorem execDispatch_shifted : Shifted o (execDispatch s) (execDispatch (prefixLog o s)) := by
  refine .ite (.next ?_) .keep
  simp only [prefixLog, List.append_assoc]

end Instructions

/-- Whatever stands before the log, an instruction does the same. -/
theorem exec_shifted (o : List OutRec) (i : Instr) (s : State) :
    Shifted o (exec i s) (exec i (prefixLog o s)) := by
  cases i with
  | config c dir et sp da en mps => exact execConfig_shifted o c s dir et sp da en mps
  | configDbuf c en b0 b1 => exact execConfigDbuf_shifted o c s en b0 b1
  | submit c dir et su len buf => exact execSubmit_shifted o c s dir et su len buf
  | halt c => exact execHalt_shifted o c s
  | setHub c ha hp => exact execSetHub_shifted o c s ha hp
  | clearHub c => exact execClearHub_shifted o c s
  | getUrb c => exact execGetUrb_shifted o c s
  | getCount c => exact execGetCount_shifted o c s
  | evXfrc c resid => exact execEvXfrc_shifted o c s resid
  | evAck c => exact latchEvent_shifted o c s .ACK _
  | evNak c => exact latchEvent_shifted o c s .NAK _
  | evStall c => exact latchEvent_shifted o c s .STALL _
  | evXacterr c => exact latchEvent_shifted o c s .XACTERR _
  | evBblerr c => exact latchEvent_shifted o c s .BBLERR _
  | evDterr c => exact latchEvent_shifted o c s .DTERR _
  | evFrmor c => exact latchEvent_shifted o c s .FRMOR _
  | evNyet c => exact latchEvent_shifted o c s .NYET _
  | evChh c => exact latchEvent_shifted o c s .CHH _
  | evPkt c n more => exact execEvPkt_shifted o c s n more
  | evDbufAck c bufsel n => exact execEvDbufAck_shifted o c s bufsel n
  | evPort pev sp => exact execEvPort_shifted o s pev sp
  | dispatch => exact execDispatch_shifted o s

/-- Settles O18: the run with records before the log is the run without them, shifted. -/
theorem outputLogIsWriteOnly : Obligations.OutputLogIsWriteOnly := by
  intro i s t o h
  calc exec i { s with out := o ++ s.out } = prefixResult o (exec i s) := exec_shifted o i s
    _ = .next { t with out := o ++ t.out } := by rw [h]; rfl

end Sys2Proof.Proofs
end

section
/-! SUPPORT. What reset leaves (R49, R290), the interrupt line (R46) and the EV_XFRC word (R150). -/

namespace Sys2Proof.Proofs

open Sys2Proof.Machine Sys2Proof.Laws

/-- The interrupt line, channel by channel (R46). -/
theorem irq_iff (s : State) :
    irq s = true ↔ s.hostMode = true ∧ ∃ i, i < s.nch ∧ unmasked (s.chan i) ≠ 0 := by
  simp only [irq, Bool.and_eq_true, List.any_eq_true, bne_iff_ne]
  refine and_congr_right fun _ => ⟨?_, ?_⟩
  · rintro ⟨c, hc, hpending⟩
    obtain ⟨i, hi, rfl⟩ := List.mem_iff_getElem.1 hc
    refine ⟨i, hi, ?_⟩
    rwa [State.chan, List.getD_eq_getElem _ _ hi]
  · rintro ⟨i, hi, hpending⟩
    exact ⟨s.chan i, chan_mem hi, hpending⟩

/-- Settles O46: some record of the array is the record of some channel below NCH. -/
theorem irqIsAnUnmaskedPendingFlag : Obligations.IrqIsAnUnmaskedPendingFlag := irq_iff

/-- After a reset no flag is pending, so the line is 0 in either mode (R46, R49). -/
theorem irq_hwReset (s : State) : irq (hwReset s) = false := by
  refine Bool.eq_false_of_not_eq_true fun h => ?_
  obtain ⟨-, i, -, hpending⟩ := (irq_iff _).1 h
  rw [hwReset_chan] at hpending
  exact hpending rfl

/-- Settles O9: reset writes `Channel.reset`, which is the table of R49, to every channel. -/
theorem resetLeavesTheResetValues : Obligations.ResetLeavesTheResetValues := by
  intro s rest hin
  exact ⟨hwReset { s with inputs := rest }, step_cons hin, fun i _ => hwReset_chan _ i,
    rfl, rfl, rfl, rfl, irq_hwReset _⟩

/-- EV_XFRC where its three checks pass (R150). -/
theorem execEvXfrc_latches {c : ChanIx} {resid : BitVec 19} {s : State} (hc : c.toNat < s.nch)
    (hdbuf : ¬ (isFs s.variant = true ∧ (s.chan c.toNat).dbufEn = true))
    (hr : resid.toNat ≤ (s.chan c.toNat).xferLen.toNat) :
    execEvXfrc c resid s =
      .next (s.putChan c.toNat (latchFlag .XFRC { s.chan c.toNat with resid := resid })) := by
  rw [execEvXfrc, if_neg (Nat.not_le_of_lt hc), if_neg hdbuf, if_neg (Nat.not_lt_of_le hr)]

/-- Settles O36: the write of one record, whose flags differ in flag 0 at most. -/
theorem xfrcWordLatchesFlagAndResidual : Obligations.XfrcWordLatchesFlagAndResidual := by
  intro c resid s hc hdbuf hr
  have hchan := chan_putChan_self (latchFlag .XFRC { s.chan c.toNat with resid := resid }) hc
  refine ⟨_, execEvXfrc_latches hc (by rwa [isFs_iff]) hr,
    channelEffect_frame (channelEffect_putChan _ _ _), fun sp a => putChan_byteAt .., rfl, rfl,
    ?_, fun b _ => ?_⟩
  · rw [hchan]
    rfl
  · rw [hchan]
    exact getLsbD_setFlag (s.chan c.toNat).hcint .XFRC b

end Sys2Proof.Proofs
end

section
/-! SUPPORT. Progress (R61, R66): under the invariant every access of a meaning lies inside its space, so every instruction and every step answers a next state. -/

namespace Sys2Proof.Proofs

open Sys2Proof.Machine Sys2Proof.Laws

/-! ## Answers that are a next state -/

/-- The meaning answers a next state: it neither stops nor refuses. -/
def Completes (r : Result) : Prop := ∃ t, r = .next t

theorem Completes.next (t : State) : Completes (.next t) := ⟨t, rfl⟩

theorem Completes.respond (st : Status) (data : BitVec 60) (s : State) :
    Completes (respond st data s) := ⟨_, rfl⟩

/-- An answer of a meaning that first checks `p`. -/
theorem Completes.check {p : Prop} [Decidable p] {r₁ r₂ : Result} (h₁ : Completes r₁)
    (h₂ : ¬ p → Completes r₂) : Completes (if p then r₁ else r₂) := by
  split
  · exact h₁
  · exact h₂ ‹_›

theorem Completes.ite {p : Prop} [Decidable p] {r₁ r₂ : Result} (h₁ : Completes r₁)
    (h₂ : Completes r₂) : Completes (if p then r₁ else r₂) := .check h₁ fun _ => h₂

/-! ## Addresses that exist -/

/-- System memory exists on every variant, up to its size (R60). -/
theorem inSpace_SYS_iff (v : Variant) (a n : Nat) :
    inSpace v .SYS a n = true ↔ a + n ≤ 2 ^ 32 := by
  simp only [inSpace, decide_true, Bool.true_or, Bool.and_true, decide_eq_true_eq]
  rfl

/-- Packet memory exists on the FS variant, up to its size (R60). -/
theorem inSpace_PMA_FS_iff (a n : Nat) : inSpace .FS .PMA a n = true ↔ a + n ≤ 2 ^ 16 := by
  simp only [inSpace, isFs, Bool.or_true, Bool.and_true, decide_eq_true_eq]
  rfl

/-- A packet within the transfer lands inside the transfer buffer, so in system memory (R61, R66). -/
theorem packet_in_sys {v : Variant} {c : Channel} (h : ChanAux v c) {n : Nat}
    (hn : c.xferCount.toNat + n ≤ c.xferLen.toNat) : nextAddr c + n ≤ 2 ^ 32 := by
  have hbuf := h.buffer_in_sys
  unfold nextAddr
  omega

/-! ## The double-buffer manager (R221 to R223) -/

/-- What the double-buffer manager needs of a channel: both ends of every copy exist (R60, R66, R116). -/
structure SlotsExist (v : Variant) (c : Channel) : Prop where
  fs : v = .FS
  buffer : c.xferBuf.toNat + c.xferLen.toNat ≤ 2 ^ 32
  slot : ∀ b, bufAddr c b + c.mps.toNat ≤ 2 ^ 16

theorem ChanOk.slotsExist {v : Variant} {c : Channel} (h : ChanOk v c) (hd : c.dbufEn = true) :
    SlotsExist v c where
  fs := (h.dbuf_fs hd).1
  buffer := h.buffer_in_sys
  slot := by
    obtain ⟨hslot0, hslot1, -⟩ := h.slots_in_pma hd
    intro b
    cases b with
    | false => exact hslot0
    | true => exact hslot1

section DoubleBuffer

variable {i : Nat} {s : State}

/-- Giving a slot the next part of a transfer, of which no more than all has been given. -/
theorem give_nextPart_completes (b : Bool) (h : SlotsExist s.variant (s.chan i))
    (hl : (s.chan i).loaded.toNat ≤ (s.chan i).xferLen.toNat) :
    ∃ t, give i b (nextPart (s.chan i)) s = .ok t := by
  obtain ⟨hfs, hbuf, hslot⟩ := h
  have hslot := hslot b
  refine give_completes fun _ => ?_
  rw [hfs, inSpace_SYS_iff, inSpace_PMA_FS_iff, nextPart]
  omega

theorem preload_completes (hi : i < s.nch) (h : SlotsExist s.variant (s.chan i)) :
    ∃ t, preload i s = .ok t := by
  generalize hs0 : s.putChan i { s.chan i with swBuf := false, loaded := 0 } = s0
  have hc0 : s0.chan i = { s.chan i with swBuf := false, loaded := 0 } :=
    hs0 ▸ chan_putChan_self _ hi
  have hi0 : i < s0.nch := by simpa [← hs0] using hi
  have h0 : SlotsExist s0.variant (s0.chan i) := by
    rw [hc0, ← hs0]
    exact ⟨h.fs, h.buffer, h.slot⟩
  obtain ⟨s1, hgive⟩ := give_nextPart_completes false h0 (by simp [hc0])
  have h1 : SlotsExist s1.variant (s1.chan i) := by
    rw [give_chan hi0 hgive, (give_frame hgive).1]
    exact ⟨h0.fs, h0.buffer, h0.slot⟩
  simp only [preload, hs0, hgive]
  split
  · next hleft => exact give_nextPart_completes true h1 (Nat.le_of_lt hleft)
  · exact ⟨s1, rfl⟩

theorem preloadIfDbuf_completes (hi : i < s.nch) (h : ChanOk s.variant (s.chan i)) :
    ∃ t, preloadIfDbuf i s = .ok t := by
  unfold preloadIfDbuf
  split
  · next hd => exact preload_completes hi (h.slotsExist hd)
  · exact ⟨s, rfl⟩

theorem refill_completes (b : Bool) (hi : i < s.nch) (h : SlotsExist s.variant (s.chan i)) :
    ∃ t, refill i b s = .ok t := by
  generalize hs0 : s.putChan i { s.chan i with fillBusy := true } = s0
  have h0 : SlotsExist s0.variant (s0.chan i) := by
    rw [← hs0, chan_putChan_self _ hi]
    exact ⟨h.fs, h.buffer, h.slot⟩
  simp only [refill, hs0]
  by_cases hleft : (s0.chan i).loaded.toNat < (s0.chan i).xferLen.toNat
  · obtain ⟨s1, hgive⟩ := give_nextPart_completes b h0 (Nat.le_of_lt hleft)
    rw [if_pos hleft, hgive]
    exact ⟨_, rfl⟩
  · rw [if_neg hleft]
    exact ⟨_, rfl⟩

theorem drainSlot_completes (b : Bool) {n : Nat} (h : SlotsExist s.variant (s.chan i))
    (hsys : nextAddr (s.chan i) + n ≤ 2 ^ 32) (hn : n ≤ (s.chan i).mps.toNat) :
    ∃ t, drainSlot i b n s = .ok t := by
  have hslot := h.slot b
  have hpma : bufAddr (s.chan i) b + n ≤ 2 ^ 16 := by omega
  unfold drainSlot
  split
  · refine ⟨_, memCopy_ok ?_ ((inSpace_SYS_iff _ _ _).2 hsys)⟩
    rw [h.fs]
    exact (inSpace_PMA_FS_iff _ _).2 hpma
  · exact ⟨s, rfl⟩

theorem ackTail_completes (b : Bool) (hi : i < s.nch) (h : SlotsExist s.variant (s.chan i)) :
    Completes (ackTail i b s) := by
  unfold ackTail
  obtain ⟨t, hrefill⟩ := refill_completes b hi h
  rw [hrefill]
  exact .ite (.next t) (.next _)

end DoubleBuffer

/-! ## The instructions that reach no memory -/

section Instructions

variable (c : ChanIx) (s : State)

theorem execConfig_completes (dir : Dir) (et : EpType) (sp : BitVec 2) (da : BitVec 7)
    (en : BitVec 4) (mps : BitVec 11) : Completes (execConfig c dir et sp da en mps s) := by
  unfold execConfig
  refine .ite (.respond ..) <| .ite (.respond ..) ?_
  cases cfgSpeed s.variant sp mps with
  | none => exact .respond ..
  | some spd => exact .respond ..

theorem execConfigDbuf_completes (en : Bool) (b0 b1 : BitVec 16) :
    Completes (execConfigDbuf c en b0 b1 s) :=
  .ite (.respond ..) <| .ite (.respond ..) <| .ite (.respond ..) <|
    .ite (.respond ..) (.respond ..)

theorem execHalt_completes : Completes (execHalt c s) :=
  .ite (.respond ..) <| .ite (.respond ..) (.respond ..)

theorem execSetHub_completes (ha hp : BitVec 7) : Completes (execSetHub c ha hp s) :=
  .ite (.respond ..) <| .ite (.respond ..) <| .ite (.respond ..) (.respond ..)

theorem execClearHub_completes : Completes (execClearHub c s) :=
  .ite (.respond ..) <| .ite (.respond ..) <| .ite (.respond ..) (.respond ..)

theorem execGetUrb_completes : Completes (execGetUrb c s) := .ite (.respond ..) (.respond ..)

theorem execGetCount_completes : Completes (execGetCount c s) := .ite (.respond ..) (.respond ..)

theorem latchEvent_completes (k : ChanEvent) (w : Word) : Completes (latchEvent k c w s) :=
  .ite (.next _) (.next _)

theorem execEvXfrc_completes (resid : BitVec 19) : Completes (execEvXfrc c resid s) :=
  .ite (.next _) <| .ite (.next _) <| .ite (.next _) (.next _)

theorem execEvPort_completes (pev : BitVec 3) (sp : BitVec 2) :
    Completes (execEvPort pev sp s) := by
  unfold execEvPort
  split
  · exact .ite (.next _) (.next _)
  · exact .next _
  · exact .next _

theorem execDispatch_completes : Completes (execDispatch s) := .ite (.next _) (.next _)

/-! ## The three instructions that reach memory -/

variable {s} (h : Inv s)
include h

/-- The checks of SUBMIT leave a transfer whose buffer exists (R66, R122), so the preload completes. -/
theorem execSubmit_completes (dir : Dir) (et : EpType) (su : Bool) (len : BitVec 19)
    (buf : BitVec 32) : Completes (execSubmit c dir et su len buf s) := by
  unfold execSubmit
  refine .check (.respond ..) fun hnch => .ite (.respond ..) <| .ite (.respond ..) <|
    .check (.respond ..) fun hbad => .ite (.respond ..) ?_
  have hc := Nat.lt_of_not_le hnch
  have hrecord := chanOk_programTransfer (chanOk_of_inv h hc)
    (Bool.eq_true_of_not_eq_false hbad) s.draws.frame
  obtain ⟨s2, hpre⟩ := preloadIfDbuf_completes
    (s := s.putChan c.toNat (programTransfer dir et su len buf s.draws.frame (s.chan c.toNat)))
    (by simpa using hc) (by rwa [chan_putChan_self _ hc])
  rw [hpre]
  exact .respond ..

/-- EV_PKT writes only a packet that the transfer still admits (R196). -/
theorem execEvPkt_completes (n : BitVec 19) (more : Bool) : Completes (execEvPkt c n more s) := by
  unfold execEvPkt
  refine .check (.next _) fun hnch => .ite (.next _) <| .check (.next _) fun hfits => ?_
  have hsys := packet_in_sys (h.aux _ (Nat.lt_of_not_le hnch)) (Nat.le_of_not_lt hfits)
  rw [memWrite_ok (by rwa [inSpace_SYS_iff, rxBytes_length])]
  exact .next _

/-- EV_DBUF_ACK moves only a packet that its slot and the transfer hold, and refills from the rest of the transfer (R222, R223). -/
theorem execEvDbufAck_completes (b : Bool) (n : BitVec 19) :
    Completes (execEvDbufAck c b n s) := by
  unfold execEvDbufAck
  refine .check (.next _) fun hnch => .check (.next _) fun hexpected => .ite (.next _) <|
    .check (.next _) fun hfits => ?_
  have hc := Nat.lt_of_not_le hnch
  have hok := chanOk_of_inv h hc
  have hslots := hok.slotsExist (Bool.eq_true_of_not_eq_false fun hd => hexpected (.inr (.inl hd)))
  have hrem : n.toNat ≤ remaining (s.chan c.toNat) :=
    Nat.le_of_not_lt fun hlt => hfits (.inl hlt)
  have hmps : n.toNat ≤ (s.chan c.toNat).mps.toNat :=
    Nat.le_of_not_lt fun hlt => hfits (.inr hlt)
  have hcount : (s.chan c.toNat).xferCount.toNat + n.toNat ≤ (s.chan c.toNat).xferLen.toNat := by
    have hle := hok.count_le_len
    unfold remaining at hrem
    omega
  obtain ⟨s1, hdrain⟩ := drainSlot_completes b hslots (packet_in_sys hok.toChanAux hcount) hmps
  have hframe := channelEffect_frame (drainSlot_effect hdrain)
  have hc1 : c.toNat < s1.nch := hframe.nch ▸ hc
  rw [hdrain]
  refine ackTail_completes b (by simpa using hc1) ?_
  obtain ⟨tin, tout, hcounted⟩ := countPacket_eq n (s.chan c.toNat)
  rw [chan_putChan_self _ hc1, chan_of_drainSlot hdrain, hcounted, putChan_variant, hframe.variant]
  exact ⟨hslots.fs, hslots.buffer, hslots.slot⟩

/-- Under the invariant every instruction answers a next state. -/
theorem exec_completes (i : Instr) : Completes (exec i s) := by
  cases i with
  | config c dir et sp da en mps => exact execConfig_completes c s dir et sp da en mps
  | configDbuf c en b0 b1 => exact execConfigDbuf_completes c s en b0 b1
  | submit c dir et su len buf => exact execSubmit_completes c h dir et su len buf
  | halt c => exact execHalt_completes c s
  | setHub c ha hp => exact execSetHub_completes c s ha hp
  | clearHub c => exact execClearHub_completes c s
  | getUrb c => exact execGetUrb_completes c s
  | getCount c => exact execGetCount_completes c s
  | evXfrc c resid => exact execEvXfrc_completes c s resid
  | evAck c => exact latchEvent_completes c s .ACK _
  | evNak c => exact latchEvent_completes c s .NAK _
  | evStall c => exact latchEvent_completes c s .STALL _
  | evXacterr c => exact latchEvent_completes c s .XACTERR _
  | evBblerr c => exact latchEvent_completes c s .BBLERR _
  | evDterr c => exact latchEvent_completes c s .DTERR _
  | evFrmor c => exact latchEvent_completes c s .FRMOR _
  | evNyet c => exact latchEvent_completes c s .NYET _
  | evChh c => exact latchEvent_completes c s .CHH _
  | evPkt c n more => exact execEvPkt_completes c h n more
  | evDbufAck c b n => exact execEvDbufAck_completes c h b n
  | evPort pev sp => exact execEvPort_completes s pev sp
  | dispatch => exact execDispatch_completes s

end Instructions

/-! ## The step -/

theorem takeWord_completes (w : Word) (d : Draws) {s : State} (h : Inv s) :
    Completes (takeWord w d s) := by
  cases hf : s.fault.valid with
  | true =>
    rw [takeWord_faulted w d hf]
    exact .next _
  | false =>
    cases hd : decode w with
    | error e =>
      rw [takeWord_illegal d hf hd]
      exact .next _
    | ok i =>
      rw [takeWord_decoded d hf hd]
      exact exec_completes (inv_beginWord d h) i

/-- Settles O14: of what the queue can hold, an instruction completes by the bounds of the invariant, and another agent's write by `stimulusOk`. -/
theorem stepNeverStopsUnderTheInvariant : Obligations.StepNeverStopsUnderTheInvariant := by
  intro s h
  cases hin : s.inputs with
  | nil => exact ⟨s, step_nil hin⟩
  | cons x rest =>
    rw [step_cons hin]
    cases x with
    | word w d => exact takeWord_completes w d (inv_taken h hin)
    | hostMode b => exact ⟨_, rfl⟩
    | memWrite sp a bs =>
      have hspace : inSpace s.variant sp a bs.length = true :=
        h.inputs_ok (.memWrite sp a bs) (hin ▸ List.mem_cons_self)
      rw [takeStimulus, memWrite_ok (s := { s with inputs := rest }) hspace]
      exact ⟨_, rfl⟩
    | reset => exact ⟨_, rfl⟩

end Sys2Proof.Proofs
end

section
/-! SUPPORT. Channel isolation (R73): what a word for one channel, a port event and a DISPATCH can reach. -/

namespace Sys2Proof.Proofs

open Sys2Proof.Machine Sys2Proof.Laws

/-! ## Words for one channel and port events -/

/-- A word for channel `c` leaves every other channel's record alone (R73). -/
theorem instrEffect_others {i : Instr} {c : ChanIx} {s t : State} (hi : channelOf i = some c)
    (h : InstrEffect i s t) {j : Nat} (hj : j ≠ c.toNat) : t.chan j = s.chan j := by
  cases h with
  | nothing => rfl
  | channel hi' h =>
    cases hi.symm.trans hi'
    exact (channelEffect_frame h).others j hj
  | fault => rfl
  | port => cases hi
  | dispatch => cases hi

/-- A PEV that is not reserved names a port event (R84). -/
theorem portEventOfCode_of_legal (pev : BitVec 3) (h : pevLegal pev = true) :
    ∃ e, portEventOfCode pev = some e := by
  rw [← Option.isSome_iff_exists]
  revert pev
  decide

/-- A SPEED that is not reserved names a speed (R84). -/
theorem speedOfCode_of_legal (sp : BitVec 2) (h : speedLegal sp = true) :
    ∃ spd, speedOfCode sp = some spd := by
  rw [← Option.isSome_iff_exists]
  revert sp
  decide

/-- EV_PORT with legal codes is the port event they name, in host mode only (R250). -/
theorem execEvPort_wellFormed {pev : BitVec 3} {sp : BitVec 2} (s : State)
    (h : (Instr.evPort pev sp).wellFormed = true) :
    ∃ e spd, execEvPort pev sp s = if s.hostMode then .next (portEvent e spd s) else .next s := by
  obtain ⟨hpev, hsp⟩ := Bool.and_eq_true_iff.1 h
  obtain ⟨e, he⟩ := portEventOfCode_of_legal pev hpev
  obtain ⟨spd, hspd⟩ := speedOfCode_of_legal sp hsp
  exact ⟨e, spd, by simp only [execEvPort, he, hspd]⟩

/-- EV_PORT with legal codes writes the port record and the log only (R73). -/
theorem execEvPort_frame {pev : BitVec 3} {sp : BitVec 2} (s : State)
    (h : (Instr.evPort pev sp).wellFormed = true) :
    Ends (fun t => t = { s with port := t.port, out := t.out }) (execEvPort pev sp s) := by
  obtain ⟨e, spd, hexec⟩ := execEvPort_wellFormed s h
  obtain ⟨p, rs, hport⟩ := portEvent_effect s e spd
  rw [hexec, hport]
  exact .ite (.next rfl) (.next rfl)

/-- Settles O20: the first clause by the inversion of `exec`, the second by the port events. -/
theorem channelsAreIsolated : Obligations.ChannelsAreIsolated :=
  ⟨fun i _ s t hi ht _ hj => instrEffect_others hi (exec_effect i s t ht) hj,
    fun _ _ s t h ht => execEvPort_frame s h t ht⟩

/-! ## DISPATCH -/

/-- The record a DISPATCH leaves a channel: its own share of the pass in host mode, nothing in device mode (R240). -/
theorem execDispatch_chan {s : State} {i : Nat} (hi : i < s.nch) :
    Ends (fun t => t.chan i =
      if s.hostMode then (dispatchChan s.variant i (s.chan i)).ch else s.chan i)
      (execDispatch s) := by
  cases hm : s.hostMode with
  | false =>
    rw [execDispatch_device hm]
    exact .next rfl
  | true =>
    rw [execDispatch_host hm]
    have hi' : i < s.ch.length := hi
    refine .next ?_
    simp only [State.chan, List.getD_eq_getElem?_getD, demux_getElem?, Nat.zero_add,
      List.getElem?_eq_getElem hi', Option.map_some, Option.getD_some, if_true]

/-- Settles O21: the record a DISPATCH leaves is a function of the record before it, the variant and the mode. -/
theorem dispatchLeaksNothingBetweenChannels :
    Obligations.DispatchLeaksNothingBetweenChannels := by
  intro s s' t t' i hi hi' hvariant hmode hchan ht ht'
  rw [execDispatch_chan hi t ht, execDispatch_chan hi' t' ht', hvariant, hmode, hchan]

end Sys2Proof.Proofs
end

section
/-! SUPPORT. The packet event (R196): where the packet's bytes go, and the record and the output it leaves. -/

namespace Sys2Proof.Proofs

open Sys2Proof.Machine Sys2Proof.Laws

/-- A packet that EV_PKT accepts: on the OTG variant without DMA, for an armed IN channel, within the requested length (R196). -/
structure PacketFits (c : ChanIx) (n : BitVec 19) (s : State) : Prop where
  channel : c.toNat < s.nch
  variant : s.variant = .OTG false
  dir : (s.chan c.toNat).dir = .IN
  armed : (s.chan c.toNat).armed = true
  length : (s.chan c.toNat).xferCount.toNat + n.toNat ≤ (s.chan c.toNat).xferLen.toNat

/-- What EV_PKT would fault for has not happened (R196). -/
theorem PacketFits.expected {c : ChanIx} {n : BitVec 19} {s : State} (h : PacketFits c n s) :
    ¬ (isFs s.variant = true ∨ dmaOn s.variant = true ∨ (s.chan c.toNat).dir = .OUT
      ∨ (s.chan c.toNat).armed = false) := by
  simp [h.variant, h.dir, h.armed, isFs, dmaOn]

section Packet

variable {c : ChanIx} {n : BitVec 19} {s : State} (more : Bool)

/-- Where the packet's bytes can be written, EV_PKT then counts the packet. -/
theorem PacketFits.exec_ok (h : PacketFits c n s) {s1 : State}
    (hw : memWrite .SYS (nextAddr (s.chan c.toNat)) (rxBytes s.draws n.toNat) s = .ok s1) :
    exec (.evPkt c n more) s =
      .next (s1.apply c.toNat (acceptPacket c.toNat n more (s.chan c.toNat))) := by
  simp only [exec, execEvPkt, if_neg (Nat.not_le_of_lt h.channel), if_neg h.expected,
    if_neg (Nat.not_lt_of_le h.length), hw, chan_of_memWrite hw]

/-- Where they cannot, EV_PKT stops as the write does (R61, log 6). -/
theorem PacketFits.exec_error (h : PacketFits c n s) {f : Fault}
    (hw : memWrite .SYS (nextAddr (s.chan c.toNat)) (rxBytes s.draws n.toNat) s = .error f) :
    exec (.evPkt c n more) s = .fault f := by
  simp only [exec, execEvPkt, if_neg (Nat.not_le_of_lt h.channel), if_neg h.expected,
    if_neg (Nat.not_lt_of_le h.length), hw]

end Packet

/-! ## A packet that memory holds -/

/-- The record of a received packet of n bytes before any re-arm, `full` saying that the packet is full with more to come (R196). -/
def receivedRecord (n : BitVec 19) (full : Bool) (c : Channel) : Channel :=
  { c with
    xferCount := BitVec.ofNat 19 (c.xferCount.toNat + n.toNat)
    errCnt := 0, nyetCnt := 0
    toggleIn := if full = true ∧ c.epType ≠ .ISOC then !c.toggleIn else c.toggleIn }

section Bookkeeping

variable (i : Nat) {n : BitVec 19} {more : Bool} {c : Channel}

/-- A short packet, or the last one, is counted and no more. -/
theorem acceptPacket_last (h : ¬ (n.toNat = c.mps.toNat ∧ more = true)) :
    acceptPacket i n more c = ChanStep.start (receivedRecord n false c) := if_neg h

/-- A full packet with more to come flips the toggle and re-arms the channel unless a halt is pending. -/
theorem acceptPacket_full (h : n.toNat = c.mps.toNat ∧ more = true) :
    acceptPacket i n more c =
      if c.haltPending then ChanStep.start (receivedRecord n true c)
      else rearm i (ChanStep.start (receivedRecord n true c)) := by
  have hflip : (if c.epType = .ISOC then receivedRecord n false c
      else { receivedRecord n false c with toggleIn := !c.toggleIn }) = receivedRecord n true c := by
    by_cases he : c.epType = .ISOC <;> simp [receivedRecord, he]
  have hpending : c.haltPending = (receivedRecord n true c).haltPending := rfl
  rw [hpending, ← hflip]
  exact if_pos h

/-- Both cases as one update of an armed channel. -/
theorem acceptPacket_eq {full : Bool} (harmed : c.armed = true)
    (hfull : full = decide (n.toNat = c.mps.toNat ∧ more = true)) :
    acceptPacket i n more c =
      { ch := { receivedRecord n full c with
          state := if full = true ∧ c.haltPending = false then .IDLE else c.state }
        out := if full = true ∧ c.haltPending = false then [armOf i (receivedRecord n full c)]
          else [] } := by
  by_cases h : n.toNat = c.mps.toNat ∧ more = true
  · rw [acceptPacket_full i h, hfull, decide_eq_true h]
    cases hp : c.haltPending with
    | true => simp [ChanStep.start, receivedRecord]
    | false =>
      simp [rearm, ChanStep.start, ChanStep.emit, ChanStep.upd, receivedRecord, armRecord_eq, harmed]
  · rw [acceptPacket_last i h, hfull, decide_eq_false h]
    rfl

end Bookkeeping

/-- A byte of the packet: the draw's, or 0 past a short draw (R16, log 3). -/
theorem rxBytes_getElem (d : Draws) (n k : Nat) (h : k < (rxBytes d n).length) :
    (rxBytes d n)[k] = d.rxData.getD k 0 := by
  simp [rxBytes]

/-- Settles O38: the write of the packet's bytes, then the bookkeeping of `acceptPacket`. -/
theorem packetIsStoredAndCounted : Obligations.PacketIsStoredAndCounted := by
  intro c n more full s c0 c1 a hc hv hc0 hdir harmed hlen ha hsys hfull hc1
  subst hc0 ha hc1
  have hspace : inSpace s.variant .SYS (nextAddr (s.chan c.toNat))
      (rxBytes s.draws n.toNat).length = true := by
    rwa [inSpace_SYS_iff, rxBytes_length]
  have hw := memWrite_ok hspace
  have hexec := PacketFits.exec_ok more ⟨hc, hv, hdir, harmed, hlen⟩ hw
  rw [acceptPacket_eq c.toNat harmed hfull] at hexec
  refine ⟨_, hexec, channelEffect_frame
    ((memWrite_effect c.toNat hw).trans (channelEffect_apply c.toNat _ _)), rfl,
    chan_apply_self _ (by simpa using hc), rfl, fun k hk => ?_, fun sp x hx => ?_⟩
  · have hk' : k < (rxBytes s.draws n.toNat).length := by simpa using hk
    rw [apply_byteAt, ← rxBytes_getElem s.draws n.toNat k hk']
    exact byteAt_putMem_inside s .SYS _ k _ hk'
  · rw [apply_byteAt]
    exact byteAt_putMem_outside s .SYS sp _ x _ (by rwa [rxBytes_length])

/-! ## A packet that memory does not hold -/

/-- MemWrite stops where an address does not exist (R61, log 6). -/
theorem memWrite_error {sp : Space} {a : Nat} {bs : List Byte} {s : State}
    (h : ¬ inSpace s.variant sp a bs.length = true) :
    memWrite sp a bs s = .error (.noSuchAddress sp a) := if_neg h

/-- Settles O39: the write is the stop, and the invariant keeps the whole transfer buffer in system memory. -/
theorem packetBeyondMemoryStops : Obligations.PacketBeyondMemoryStops := by
  intro c n more s c0 a hc hv hc0 hdir harmed hlen ha hbeyond
  subst hc0 ha
  refine ⟨PacketFits.exec_error more ⟨hc, hv, hdir, harmed, hlen⟩ (memWrite_error ?_),
    fun hinv => ?_⟩
  · rw [inSpace_SYS_iff, rxBytes_length]
    exact Nat.not_le_of_lt hbeyond
  · exact absurd (packet_in_sys (hinv.aux _ hc) hlen) (Nat.not_le_of_lt hbeyond)

end Sys2Proof.Proofs
end

section
/-! SUPPORT. The encoder (R80 to R92): the word it writes is the one word that spells the instruction, field by field. -/

namespace Sys2Proof.Proofs

/-! ## The fields a word spells -/

/-- The bits of `w` from bit `s` up spell `x`. -/
def SpellsAt (w : Word) (s : Nat) {n : Nat} (x : BitVec n) : Prop := w.extractLsb' s n = x

/-- A word is what it spells from bit 0 up. -/
theorem eq_iff_spellsAt {x w : Word} : x = w ↔ SpellsAt w 0 x := by
  rw [SpellsAt, BitVec.extractLsb'_eq_self, eq_comm]

/-- Fields written one after the other are spelled one after the other. -/
theorem spellsAt_append {w : Word} {s m n : Nat} {x : BitVec m} {y : BitVec n} :
    SpellsAt w s (x ++ y) ↔ SpellsAt w (s + n) x ∧ SpellsAt w s y := by
  unfold SpellsAt
  rw [← BitVec.extractLsb'_append_extractLsb'_eq_extractLsb' rfl]
  constructor
  · intro h
    have hleft := congrArg (BitVec.extractLsb' n m) h
    have hright := congrArg (BitVec.extractLsb' 0 n) h
    rw [BitVec.extractLsb'_append_eq_left, BitVec.extractLsb'_append_eq_left] at hleft
    rw [BitVec.extractLsb'_append_eq_right, BitVec.extractLsb'_append_eq_right] at hright
    exact ⟨hleft, hright⟩
  · rintro ⟨rfl, rfl⟩
    rfl

theorem spellsAt_op {w : Word} {op : BitVec 5} : SpellsAt w 59 op ↔ opOf w = op.toNat :=
  BitVec.toNat_inj.symm

theorem spellsAt_chan {w : Word} {c : ChanIx} : SpellsAt w 55 c ↔ chOf w = c := Iff.rfl

theorem spellsAt_bit {w : Word} {s : Nat} {b : Bool} :
    SpellsAt w s (BitVec.ofBool b) ↔ w.getLsbD s = b := by
  have hbit : w.extractLsb' s 1 = BitVec.ofBool (w.getLsbD s) := by
    refine BitVec.eq_of_getLsbD_eq fun i hi => ?_
    obtain rfl : i = 0 := by omega
    simp
  rw [SpellsAt, hbit, BitVec.ofBool_eq_iff_eq]

theorem spellsAt_dir {w : Word} {s : Nat} {d : Dir} :
    SpellsAt w s (dirBit d) ↔ dirOfBit (w.getLsbD s) = d := by
  have hd : dirBit d = BitVec.ofBool (decide (d = .IN)) := by cases d <;> rfl
  rw [hd, spellsAt_bit]
  cases d <;> cases w.getLsbD s <;> decide

theorem spellsAt_epType {w : Word} {s : Nat} {et : EpType} :
    SpellsAt w s (epTypeCode et) ↔ epTypeOfCode (w.extractLsb' s 2) = et := by
  unfold SpellsAt
  generalize w.extractLsb' s 2 = x
  revert x
  cases et <;> decide

/-! ## The formats (R81 to R92) -/

/-- A word of format CHN, or of an event that carries its channel only: OP, channel, 55 reserved bits (R86, R88). -/
structure ChannelWord (w : Word) (op : Nat) (c : ChanIx) : Prop where
  op_eq : opOf w = op
  chan_eq : chOf w = c
  reserved : w.extractLsb' 0 55 = 0

/-- The word spells the instruction: the fields of R81 to R92 from bit 63 down, read out of the word, and its reserved bits 0. -/
def Spells (w : Word) : Instr → Prop
  | .config c dir et sp da en mps =>
    opOf w = 0x01 ∧ chOf w = c ∧ dirOfBit (w.getLsbD 54) = dir
      ∧ epTypeOfCode (w.extractLsb' 52 2) = et ∧ w.extractLsb' 50 2 = sp
      ∧ w.extractLsb' 43 7 = da ∧ w.extractLsb' 39 4 = en ∧ w.extractLsb' 28 11 = mps
      ∧ w.extractLsb' 0 28 = 0
  | .configDbuf c en b0 b1 =>
    opOf w = 0x02 ∧ chOf w = c ∧ w.getLsbD 54 = en ∧ w.extractLsb' 48 6 = 0
      ∧ w.extractLsb' 32 16 = b0 ∧ w.extractLsb' 16 16 = b1 ∧ w.extractLsb' 0 16 = 0
  | .submit c dir et su len buf =>
    opOf w = 0x03 ∧ chOf w = c ∧ dirOfBit (w.getLsbD 54) = dir
      ∧ epTypeOfCode (w.extractLsb' 52 2) = et ∧ w.getLsbD 51 = su
      ∧ w.extractLsb' 32 19 = len ∧ w.extractLsb' 0 32 = buf
  | .halt c => ChannelWord w 0x04 c
  | .setHub c ha hp =>
    opOf w = 0x05 ∧ chOf w = c ∧ w.extractLsb' 48 7 = ha ∧ w.extractLsb' 41 7 = hp
      ∧ w.extractLsb' 0 41 = 0
  | .clearHub c => ChannelWord w 0x06 c
  | .getUrb c => ChannelWord w 0x07 c
  | .getCount c => ChannelWord w 0x08 c
  | .evXfrc c resid =>
    opOf w = 0x10 ∧ chOf w = c ∧ w.extractLsb' 51 4 = 0 ∧ w.extractLsb' 32 19 = resid
      ∧ w.extractLsb' 0 32 = 0
  | .evAck c => ChannelWord w 0x11 c
  | .evNak c => ChannelWord w 0x12 c
  | .evStall c => ChannelWord w 0x13 c
  | .evXacterr c => ChannelWord w 0x14 c
  | .evBblerr c => ChannelWord w 0x15 c
  | .evDterr c => ChannelWord w 0x16 c
  | .evFrmor c => ChannelWord w 0x17 c
  | .evNyet c => ChannelWord w 0x18 c
  | .evChh c => ChannelWord w 0x19 c
  | .evPkt c n more =>
    opOf w = 0x1A ∧ chOf w = c ∧ w.extractLsb' 51 4 = 0 ∧ w.extractLsb' 32 19 = n
      ∧ w.getLsbD 31 = more ∧ w.extractLsb' 0 31 = 0
  | .evDbufAck c bufsel n =>
    opOf w = 0x1B ∧ chOf w = c ∧ w.getLsbD 54 = bufsel ∧ w.extractLsb' 51 3 = 0
      ∧ w.extractLsb' 32 19 = n ∧ w.extractLsb' 0 32 = 0
  | .evPort pev sp =>
    opOf w = 0x1C ∧ w.extractLsb' 55 4 = 0 ∧ w.extractLsb' 52 3 = pev
      ∧ w.extractLsb' 50 2 = sp ∧ w.extractLsb' 0 50 = 0
  | .dispatch => opOf w = 0x1F ∧ w.extractLsb' 0 59 = 0

/-- The widths are summed only after the word is cut, since the cut reads them off the type. -/
theorem spellsAt_channelWord {w : Word} {op : BitVec 5} {c : ChanIx} :
    SpellsAt w 0 (op ++ c ++ 0#55) ↔ ChannelWord w op.toNat c := by
  simp only [spellsAt_append]
  simp only [Nat.reduceAdd, spellsAt_op, spellsAt_chan]
  exact ⟨fun ⟨⟨hop, hc⟩, hz⟩ => ⟨hop, hc, hz⟩, fun ⟨hop, hc, hz⟩ => ⟨⟨hop, hc⟩, hz⟩⟩

/-- The encoder writes the one word that spells the instruction (R80 to R92). -/
theorem encode_eq_iff_spells (i : Instr) (w : Word) : encode i = w ↔ Spells w i := by
  rw [eq_iff_spellsAt]
  cases i with
  | halt c | clearHub c | getUrb c | getCount c | evAck c | evNak c | evStall c | evXacterr c
  | evBblerr c | evDterr c | evFrmor c | evNyet c | evChh c => exact spellsAt_channelWord
  | _ =>
    simp only [encode, spellsAt_append]
    simp only [Nat.reduceAdd, spellsAt_op, spellsAt_chan, spellsAt_dir, spellsAt_epType,
      spellsAt_bit, and_assoc]
    rfl

end Sys2Proof.Proofs
end

section
/-! SUPPORT. The decoder (R93 to R96): which words it refuses and why, and that decoder and encoder are inverse to each other. -/

namespace Sys2Proof.Proofs

/-! ## The reserved bits (R94, R96) -/

/-- The reserved opcodes (R93). -/
def reservedOps : List Nat := [0x00, 0x09, 0x0A, 0x0B, 0x0C, 0x0D, 0x0E, 0x0F, 0x1D, 0x1E]

/-- The reserved bits of each format, as (OP, first bit, number of bits) (R81 to R92). -/
def reservedRanges : List (Nat × Nat × Nat) :=
  [(0x01, 0, 28), (0x02, 48, 6), (0x02, 0, 16), (0x04, 0, 55), (0x05, 0, 41),
    (0x06, 0, 55), (0x07, 0, 55), (0x08, 0, 55), (0x10, 51, 4), (0x10, 0, 32),
    (0x11, 0, 55), (0x12, 0, 55), (0x13, 0, 55), (0x14, 0, 55), (0x15, 0, 55),
    (0x16, 0, 55), (0x17, 0, 55), (0x18, 0, 55), (0x19, 0, 55), (0x1A, 51, 4),
    (0x1A, 0, 31), (0x1B, 51, 3), (0x1B, 0, 32), (0x1C, 55, 4), (0x1C, 0, 50),
    (0x1F, 0, 59)]

/-- No reserved bit of the format that the word's OP names is 1. -/
abbrev ReservedClear (w : Word) : Prop :=
  ∀ r ∈ reservedRanges, opOf w = r.1 → w.extractLsb' r.2.1 r.2.2 = 0

/-- The mask of `n` bits from bit `s` up. -/
def fieldMask (s n : Nat) : Word := (BitVec.allOnes n).setWidth 64 <<< s

theorem getLsbD_fieldMask (s n i : Nat) :
    (fieldMask s n).getLsbD i = decide (i < 64 ∧ s ≤ i ∧ i < s + n) := by
  rw [Bool.eq_iff_iff]
  simp only [fieldMask, BitVec.getLsbD_shiftLeft, BitVec.getLsbD_setWidth, BitVec.getLsbD_allOnes,
    Bool.and_eq_true, Bool.not_eq_true', decide_eq_true_eq, decide_eq_false_iff_not]
  omega

theorem and_fieldMask_eq_zero_iff (w : Word) (s n : Nat) :
    w &&& fieldMask s n = 0 ↔ w.extractLsb' s n = 0 := by
  simp only [BitVec.ofNat_eq_ofNat, BitVec.zero_iff_eq_false, BitVec.getLsbD_and,
    BitVec.getLsbD_extractLsb', getLsbD_fieldMask, Bool.and_eq_false_iff, decide_eq_false_iff_not]
  constructor
  · intro h i
    by_cases hi : s + i < 64
    · rcases h (s + i) with hbit | hout
      · exact .inr hbit
      · exact .inl (by omega)
    · exact .inr (BitVec.getLsbD_of_ge w _ (Nat.le_of_not_lt hi))
  · intro h i
    by_cases hi : s ≤ i
    · rcases h (i - s) with hout | hbit
      · exact .inr (by omega)
      · exact .inl (by rwa [Nat.add_sub_cancel' hi] at hbit)
    · exact .inr (by omega)

/-- The masks of operation `op` among `rs`, in one word. -/
def rangesMask (op : Nat) : List (Nat × Nat × Nat) → Word
  | [] => 0
  | r :: rs => (if op = r.1 then fieldMask r.2.1 r.2.2 else 0) ||| rangesMask op rs

/-- The mask finds exactly the ranges that are not clear. -/
theorem and_rangesMask_eq_zero_iff (w : Word) (op : Nat) (rs : List (Nat × Nat × Nat)) :
    w &&& rangesMask op rs = 0 ↔ ∀ r ∈ rs, op = r.1 → w.extractLsb' r.2.1 r.2.2 = 0 := by
  induction rs with
  | nil => simp [rangesMask]
  | cons r rs ih =>
    rw [rangesMask, BitVec.and_or_distrib_left, List.forall_mem_cons]
    refine BitVec.or_eq_zero_iff.trans (and_congr ?_ ih)
    split
    · next hop => simp only [hop, forall_const]; exact and_fieldMask_eq_zero_iff ..
    · next hop => simp [hop]

/-- The masks of R96 are the ranges of R81 to R92, and only a reserved OP has none. -/
theorem reservedMask_eq : ∀ op < 32, reservedMask op =
    if op ∈ reservedOps then none else some (rangesMask op reservedRanges) := by
  decide

/-! ## The decoder (R96) -/

theorem opOf_lt (w : Word) : opOf w < 32 := (w.extractLsb' 59 5).isLt

/-- The order of the decoder's checks, the reserved bits named by their place. -/
theorem decode_eq (w : Word) :
    decode w =
      if opOf w ∈ reservedOps then .error .reservedOp
      else if ReservedClear w then decodeFields w else .error .reservedBits := by
  rw [decode, reservedMask_eq _ (opOf_lt w)]
  by_cases hop : opOf w ∈ reservedOps
  · rw [if_pos hop, if_pos hop]
  · rw [if_neg hop, if_neg hop]
    exact if_congr (and_rangesMask_eq_zero_iff w (opOf w) reservedRanges) rfl rfl

/-- Past the first two checks only the fields decide. -/
theorem decode_of_reservedClear {w : Word} (hop : opOf w ∉ reservedOps) (hclear : ReservedClear w) :
    decode w = decodeFields w := by
  rw [decode_eq, if_neg hop, if_pos hclear]

/-- The reserved codes of EV_PORT (R84, R94). -/
theorem portCodes_reserved_iff (pev : BitVec 3) (sp : BitVec 2) :
    ¬ (pevLegal pev && speedLegal sp) = true ↔ 4 < pev.toNat ∨ sp = 3 := by
  have hpev : pevLegal pev = true ↔ ¬ 4 < pev.toNat := by simp [pevLegal]
  have hsp : speedLegal sp = true ↔ sp ≠ 3 := by
    revert sp
    decide
  rw [Bool.and_eq_true, hpev, hsp, ← not_or, not_not]

theorem ReservedClear.zero {w : Word} (h : ReservedClear w) {op s n : Nat}
    (hr : (op, s, n) ∈ reservedRanges) (hop : opOf w = op) : w.extractLsb' s n = 0 :=
  h (op, s, n) hr hop

theorem ReservedClear.channelWord {w : Word} (h : ReservedClear w) {op : Nat}
    (hr : (op, 0, 55) ∈ reservedRanges) (hop : opOf w = op) : ChannelWord w op (chOf w) :=
  ⟨hop, rfl, h.zero hr hop⟩

/-- A word with clear reserved bits spells what its fields decode to. -/
theorem decodeFields_ok {w : Word} {i : Instr} (hclear : ReservedClear w)
    (h : decodeFields w = .ok i) : Spells w i ∧ i.wellFormed = true := by
  unfold decodeFields at h
  split at h
  case h_1 hop =>
    cases h
    exact ⟨⟨hop, rfl, rfl, rfl, rfl, rfl, rfl, rfl, hclear.zero (by decide) hop⟩, rfl⟩
  case h_2 hop =>
    cases h
    exact ⟨⟨hop, rfl, rfl, hclear.zero (by decide) hop, rfl, rfl, hclear.zero (by decide) hop⟩, rfl⟩
  case h_3 hop => cases h; exact ⟨⟨hop, rfl, rfl, rfl, rfl, rfl, rfl⟩, rfl⟩
  case h_5 hop => cases h; exact ⟨⟨hop, rfl, rfl, rfl, hclear.zero (by decide) hop⟩, rfl⟩
  case h_9 hop =>
    cases h
    exact ⟨⟨hop, rfl, hclear.zero (by decide) hop, rfl, hclear.zero (by decide) hop⟩, rfl⟩
  case h_19 hop =>
    cases h
    exact ⟨⟨hop, rfl, hclear.zero (by decide) hop, rfl, rfl, hclear.zero (by decide) hop⟩, rfl⟩
  case h_20 hop =>
    cases h
    exact ⟨⟨hop, rfl, rfl, hclear.zero (by decide) hop, rfl, hclear.zero (by decide) hop⟩, rfl⟩
  case h_21 hop =>
    split at h
    next hcodes =>
      cases h
      exact ⟨⟨hop, hclear.zero (by decide) hop, rfl, rfl, hclear.zero (by decide) hop⟩, hcodes⟩
    next => cases h
  case h_22 hop => cases h; exact ⟨⟨hop, hclear.zero (by decide) hop⟩, rfl⟩
  case h_23 => cases h
  case h_4 hop | h_6 hop | h_7 hop | h_8 hop | h_10 hop | h_11 hop | h_12 hop | h_13 hop
      | h_14 hop | h_15 hop | h_16 hop | h_17 hop | h_18 hop =>
    cases h
    exact ⟨hclear.channelWord (by decide) hop, rfl⟩

/-- The fields of a word are refused for a reserved OP or a reserved code of EV_PORT. -/
theorem decodeFields_error {w : Word} {e : DecodeError} (hop : opOf w ∉ reservedOps)
    (h : decodeFields w = .error e) :
    e = .reservedEnum ∧ opOf w = 0x1C
      ∧ (4 < (w.extractLsb' 52 3).toNat ∨ w.extractLsb' 50 2 = 3) := by
  have hlt := opOf_lt w
  unfold decodeFields at h
  split at h
  case h_21 hport =>
    split at h
    next => cases h
    next hcodes => cases h; exact ⟨rfl, hport, (portCodes_reserved_iff _ _).1 hcodes⟩
  case h_23 =>
    simp only [reservedOps, List.mem_cons, List.not_mem_nil, or_false, imp_false] at *
    omega
  all_goals cases h

/-- Where the reserved ranges of a legal OP are among `fs` and are clear, only the fields decide. -/
theorem decode_of_clear {w : Word} {op : Nat} (fs : List (Nat × Nat)) (hop : opOf w = op)
    (hrow : op ∉ reservedOps ∧ ∀ r ∈ reservedRanges, op = r.1 → r.2 ∈ fs)
    (hzero : ∀ f ∈ fs, w.extractLsb' f.1 f.2 = 0) : decode w = decodeFields w := by
  subst hop
  obtain ⟨hlegal, hranges⟩ := hrow
  exact decode_of_reservedClear hlegal fun r hr hop => hzero r.2 (hranges r hr hop)

/-- The word that spells a well-formed instruction decodes to it. -/
theorem decode_of_spells {w : Word} {i : Instr} (h : Spells w i) (hwf : i.wellFormed = true) :
    decode w = .ok i := by
  cases i with
  | config c dir et sp da en mps =>
    obtain ⟨hop, rfl, rfl, rfl, rfl, rfl, rfl, rfl, hz⟩ := h
    rw [decode_of_clear [(0, 28)] hop (by decide) (by simpa using hz)]
    simp only [decodeFields, hop]
  | configDbuf c en b0 b1 =>
    obtain ⟨hop, rfl, rfl, hz, rfl, rfl, hz'⟩ := h
    rw [decode_of_clear [(48, 6), (0, 16)] hop (by decide) (by simpa using ⟨hz, hz'⟩)]
    simp only [decodeFields, hop]
  | submit c dir et su len buf =>
    obtain ⟨hop, rfl, rfl, rfl, rfl, rfl, rfl⟩ := h
    rw [decode_of_clear [] hop (by decide) (by simp)]
    simp only [decodeFields, hop]
  | setHub c ha hp =>
    obtain ⟨hop, rfl, rfl, rfl, hz⟩ := h
    rw [decode_of_clear [(0, 41)] hop (by decide) (by simpa using hz)]
    simp only [decodeFields, hop]
  | evXfrc c resid =>
    obtain ⟨hop, rfl, hz, rfl, hz'⟩ := h
    rw [decode_of_clear [(51, 4), (0, 32)] hop (by decide) (by simpa using ⟨hz, hz'⟩)]
    simp only [decodeFields, hop]
  | evPkt c n more =>
    obtain ⟨hop, rfl, hz, rfl, rfl, hz'⟩ := h
    rw [decode_of_clear [(51, 4), (0, 31)] hop (by decide) (by simpa using ⟨hz, hz'⟩)]
    simp only [decodeFields, hop]
  | evDbufAck c bufsel n =>
    obtain ⟨hop, rfl, rfl, hz, rfl, hz'⟩ := h
    rw [decode_of_clear [(51, 3), (0, 32)] hop (by decide) (by simpa using ⟨hz, hz'⟩)]
    simp only [decodeFields, hop]
  | evPort pev sp =>
    obtain ⟨hop, hz, rfl, rfl, hz'⟩ := h
    rw [decode_of_clear [(55, 4), (0, 50)] hop (by decide) (by simpa using ⟨hz, hz'⟩)]
    simp only [decodeFields, hop]
    exact if_pos hwf
  | dispatch =>
    obtain ⟨hop, hz⟩ := h
    rw [decode_of_clear [(0, 59)] hop (by decide) (by simpa using hz)]
    simp only [decodeFields, hop]
  | halt c | clearHub c | getUrb c | getCount c | evAck c | evNak c | evStall c | evXacterr c
  | evBblerr c | evDterr c | evFrmor c | evNyet c | evChh c =>
    obtain ⟨hop, rfl, hz⟩ := h
    rw [decode_of_clear [(0, 55)] hop (by decide) (by simpa using hz)]
    simp only [decodeFields, hop]

/-! ## The round trip -/

/-- Decoder and encoder are inverse to each other. -/
theorem decode_eq_ok_iff (w : Word) (i : Instr) :
    decode w = .ok i ↔ encode i = w ∧ i.wellFormed = true := by
  rw [encode_eq_iff_spells]
  refine ⟨fun h => ?_, fun ⟨hspells, hwf⟩ => decode_of_spells hspells hwf⟩
  rw [decode_eq] at h
  split_ifs at h with hop hclear
  exact decodeFields_ok hclear h

/-- Settles O1: the encoder's word spells the instruction, and the word that spells it decodes to it. -/
theorem decodeInvertsEncode : Obligations.DecodeInvertsEncode :=
  fun i hwf => (decode_eq_ok_iff (encode i) i).2 ⟨rfl, hwf⟩

/-- Settles O2: a word that decodes spells the instruction in its fields and reserved bits, which are all its bits. -/
theorem encodeInvertsDecode : Obligations.EncodeInvertsDecode :=
  fun w i h => (decode_eq_ok_iff w i).1 h

/-! ## The words that spell no operation (R94) -/

theorem decode_reservedOp_iff (w : Word) :
    decode w = .error .reservedOp ↔ opOf w ∈ reservedOps := by
  rw [decode_eq]
  split_ifs with hop hclear
  · simp [hop]
  · refine iff_of_false (fun h => ?_) hop
    cases (decodeFields_error hop h).1
  · simp [hop]

/-- A reserved OP has no format, so no reserved bits. -/
theorem reservedClear_of_mem_reservedOps {w : Word} (hop : opOf w ∈ reservedOps) :
    ReservedClear w := by
  have hnone : ∀ op ∈ reservedOps, ∀ r ∈ reservedRanges, op ≠ r.1 := by decide
  exact fun r hr h => absurd h (hnone _ hop r hr)

theorem decode_reservedBits_iff (w : Word) :
    decode w = .error .reservedBits ↔ ¬ ReservedClear w := by
  rw [decode_eq]
  split_ifs with hop hclear
  · exact iff_of_false (by simp) (not_not_intro (reservedClear_of_mem_reservedOps hop))
  · refine iff_of_false (fun h => ?_) (not_not_intro hclear)
    cases (decodeFields_error hop h).1
  · exact iff_of_true rfl hclear

theorem decode_reservedEnum_iff (w : Word) :
    decode w = .error .reservedEnum ↔
      opOf w = 0x1C ∧ w.extractLsb' 55 4 = 0 ∧ w.extractLsb' 0 50 = 0
        ∧ (4 < (w.extractLsb' 52 3).toNat ∨ w.extractLsb' 50 2 = 3) := by
  constructor
  · intro h
    have hop : opOf w ∉ reservedOps := fun hop => by
      cases h.symm.trans ((decode_reservedOp_iff w).2 hop)
    have hclear : ReservedClear w := not_not.1 fun hset => by
      cases h.symm.trans ((decode_reservedBits_iff w).2 hset)
    rw [decode_of_reservedClear hop hclear] at h
    obtain ⟨-, hport, hcodes⟩ := decodeFields_error hop h
    exact ⟨hport, hclear.zero (by decide) hport, hclear.zero (by decide) hport, hcodes⟩
  · rintro ⟨hport, hz, hz', hcodes⟩
    rw [decode_of_clear [(55, 4), (0, 50)] hport (by decide) (by simpa using ⟨hz, hz'⟩)]
    simp only [decodeFields, hport]
    exact if_neg ((portCodes_reserved_iff _ _).2 hcodes)

/-- Settles O4: the mask test reads the reserved ranges, and past it the fields are refused only for the codes of EV_PORT. -/
theorem decoderRejectsExactlyTheIllegalWords :
    Obligations.DecoderRejectsExactlyTheIllegalWords := by
  refine fun w => ⟨decode_reservedOp_iff w, (decode_reservedBits_iff w).trans ?_,
    decode_reservedEnum_iff w⟩
  simp only [ReservedClear, not_forall, exists_prop]
  rfl

/-- Settles O3: the decoder run on the fixed words. -/
theorem decodesTheWordsOfTheSpec : Obligations.DecodesTheWordsOfTheSpec := by
  unfold Obligations.DecodesTheWordsOfTheSpec
  decide

end Sys2Proof.Proofs
end

section
/-! SUPPORT. Words that spell no operation (R94, R262), and the nine latching event words (R85, R150). -/

namespace Sys2Proof.Proofs

open Sys2Proof.Machine Sys2Proof.Laws

/-- Settles O6: the item is taken, then the word is refused. -/
theorem stepRaisesIllegalOp : Obligations.StepRaisesIllegalOp := by
  intro s w d rest e hin hf hd
  calc step s = takeWord w d { s with inputs := rest } := step_cons hin
    _ = _ := takeWord_illegal d hf hd

/-- The nine words without a residual count differ in their flag only (R150). -/
theorem exec_eventWord {k : ChanEvent} {c : ChanIx} {i : Instr} (s : State)
    (hi : eventWord k c = some i) : exec i s = latchEvent k c (encode i) s := by
  cases k <;> cases hi <;> rfl

/-- A latching event of an existing channel (R150). -/
theorem latchEvent_latches {k : ChanEvent} {c : ChanIx} (w : Word) {s : State}
    (hc : c.toNat < s.nch) :
    latchEvent k c w s = .next (s.putChan c.toNat (latchFlag k (s.chan c.toNat))) :=
  if_neg (Nat.not_le_of_lt hc)

/-- Settles O35: the write of one record, whose flags differ in flag k at most. -/
theorem eventWordsLatchTheirFlag : Obligations.EventWordsLatchTheirFlag := by
  intro k c i s hi hc
  have hchan := chan_putChan_self (latchFlag k (s.chan c.toNat)) hc
  refine ⟨_, (exec_eventWord s hi).trans (latchEvent_latches _ hc),
    channelEffect_frame (channelEffect_putChan _ _ _), fun sp a => putChan_byteAt .., rfl, rfl,
    ?_, fun b _ => ?_⟩
  · rw [hchan]
    rfl
  · rw [hchan]
    exact getLsbD_setFlag (s.chan c.toNat).hcint k b

end Sys2Proof.Proofs
end

section
/-! SUPPORT. The commands (R110 to R145): the checks they share, what an answer leaves unchanged, and what each command but SUBMIT does. -/

namespace Sys2Proof.Proofs

open Sys2Proof.Machine Sys2Proof.Laws

/-! ## The checks (R145) -/

/-- The three checks that CONFIG_DBUF, SUBMIT, SET_HUB and CLEAR_HUB share, in the order of R145, before they answer `r`. -/
def checked (c : ChanIx) (s : State) (r : Result) : Result :=
  if s.nch ≤ c.toNat then respond .ERR_RANGE 0 s
  else if (s.chan c.toNat).configured = false then respond .ERR_NOTCFG 0 s
  else if (s.chan c.toNat).armed then respond .ERR_BUSY 0 s
  else r

/-- A channel that passes them: it exists, is configured and is not armed. -/
structure ChannelReady (c : ChanIx) (s : State) : Prop where
  channel : c.toNat < s.nch
  configured : (s.chan c.toNat).configured = true
  unarmed : (s.chan c.toNat).armed = false

section Checked

variable {c : ChanIx} {s : State} (r : Result)

theorem checked_range (h : s.nch ≤ c.toNat) : checked c s r = respond .ERR_RANGE 0 s := if_pos h

theorem checked_notcfg (hc : c.toNat < s.nch) (h : (s.chan c.toNat).configured = false) :
    checked c s r = respond .ERR_NOTCFG 0 s := by
  rw [checked, if_neg (Nat.not_le_of_lt hc), if_pos h]

theorem checked_busy (hc : c.toNat < s.nch) (hconf : (s.chan c.toNat).configured = true)
    (h : (s.chan c.toNat).armed = true) : checked c s r = respond .ERR_BUSY 0 s := by
  rw [checked, if_neg (Nat.not_le_of_lt hc), if_neg (by simp [hconf]), if_pos h]

theorem ChannelReady.checked (h : ChannelReady c s) : checked c s r = r := by
  rw [Proofs.checked, if_neg (Nat.not_le_of_lt h.channel), if_neg (by simp [h.configured]),
    if_neg (by simp [h.unarmed])]

end Checked

/-- What SUBMIT does once its checks have passed, `r` being the record it programs (R121). -/
def startTransfer (c : ChanIx) (r : Channel) (s : State) : Result :=
  if s.draws.hwOk = false then respond .ERR_HW 0 (s.putChan c.toNat { r with state := .HALTED })
  else
    match preloadIfDbuf c.toNat (s.putChan c.toNat r) with
    | .error f => .fault f
    | .ok s2 => respond .OK 0 (s2.apply c.toNat (armSubmitted c.toNat (s2.chan c.toNat)))

section Meanings

variable (c : ChanIx) (s : State)

theorem exec_configDbuf (en : Bool) (b0 b1 : BitVec 16) :
    exec (.configDbuf c en b0 b1) s = checked c s
      (if en = true ∧ dbufOk s.variant (s.chan c.toNat) b0 b1 = false then respond .ERR_PARAM 0 s
        else respond .OK 0 (s.putChan c.toNat (configureDbuf en b0 b1 (s.chan c.toNat)))) := rfl

theorem exec_submit (dir : Dir) (et : EpType) (su : Bool) (len : BitVec 19) (buf : BitVec 32) :
    exec (.submit c dir et su len buf) s = checked c s
      (if subOk s.variant (s.chan c.toNat) dir et su len buf = false then respond .ERR_PARAM 0 s
        else startTransfer c
          (programTransfer dir et su len buf s.draws.frame (s.chan c.toNat)) s) := rfl

theorem exec_setHub (ha hp : BitVec 7) :
    exec (.setHub c ha hp) s = checked c s (respond .OK 0 (s.putChan c.toNat
      (routeHub ha hp (!isFs s.variant && decide ((s.chan c.toNat).speed ≠ .HS))
        (s.chan c.toNat)))) := rfl

theorem exec_clearHub :
    exec (.clearHub c) s = checked c s
      (respond .OK 0 (s.putChan c.toNat (routeHub 0 0 false (s.chan c.toNat)))) := rfl

theorem exec_getUrb :
    exec (.getUrb c) s =
      if s.nch ≤ c.toNat then respond .ERR_RANGE 0 s
      else respond .OK (urbData (s.chan c.toNat)) s := rfl

theorem exec_getCount :
    exec (.getCount c) s =
      if s.nch ≤ c.toNat then respond .ERR_RANGE 0 s
      else respond .OK ((s.chan c.toNat).xferCount.setWidth 60) s := rfl

end Meanings

section Config

variable {c : ChanIx} {s : State} (dir : Dir) (et : EpType) {sp : BitVec 2} (da : BitVec 7)
  (en : BitVec 4) {mps : BitVec 11}

theorem exec_config_range (h : s.nch ≤ c.toNat) :
    exec (.config c dir et sp da en mps) s = respond .ERR_RANGE 0 s := if_pos h

theorem exec_config_busy (hc : c.toNat < s.nch) (h : (s.chan c.toNat).armed = true) :
    exec (.config c dir et sp da en mps) s = respond .ERR_BUSY 0 s := by
  simp only [exec, execConfig, if_neg (Nat.not_le_of_lt hc), if_pos h]

theorem exec_config_param (hc : c.toNat < s.nch) (hunarmed : (s.chan c.toNat).armed = false)
    (h : cfgSpeed s.variant sp mps = none) :
    exec (.config c dir et sp da en mps) s = respond .ERR_PARAM 0 s := by
  simp only [exec, execConfig, if_neg (Nat.not_le_of_lt hc), hunarmed, Bool.false_eq_true,
    if_false, h]

theorem exec_config_ok {spd : Speed} (hc : c.toNat < s.nch)
    (hunarmed : (s.chan c.toNat).armed = false) (h : cfgSpeed s.variant sp mps = some spd) :
    exec (.config c dir et sp da en mps) s =
      respond .OK 0 (s.putChan c.toNat (configure dir et spd da en mps (s.chan c.toNat))) := by
  simp only [exec, execConfig, if_neg (Nat.not_le_of_lt hc), hunarmed, Bool.false_eq_true,
    if_false, h]

end Config

section Halt

variable {c : ChanIx} {s : State}

theorem exec_halt_range (h : s.nch ≤ c.toNat) : exec (.halt c) s = respond .ERR_RANGE 0 s :=
  if_pos h

theorem exec_halt_idle (hc : c.toNat < s.nch)
    (h : (s.chan c.toNat).armed = false ∨ (s.chan c.toNat).haltPending = true) :
    exec (.halt c) s = respond .OK 0 s := by
  simp only [exec, execHalt, if_neg (Nat.not_le_of_lt hc), if_pos h]

theorem exec_halt_live (hc : c.toNat < s.nch) (harmed : (s.chan c.toNat).armed = true)
    (hpend : (s.chan c.toNat).haltPending = false) :
    exec (.halt c) s = respond (if s.draws.hwOk then .OK else .ERR_HW) 0
      (s.apply c.toNat (haltNow c.toNat (s.chan c.toNat))) := by
  have hlive : ¬ ((s.chan c.toNat).armed = false ∨ (s.chan c.toNat).haltPending = true) := by
    simp [harmed, hpend]
  simp only [exec, execHalt, if_neg (Nat.not_le_of_lt hc), if_neg hlive]

end Halt

/-! ## The parameter checks (R111, R122) -/

/-- The speed that CONFIG stores where its parameters are legal (R84, R111). -/
theorem cfgSpeed_of_legal {v : Variant} {sp : BitVec 2} {mps : BitVec 11} {spd : Speed}
    (hsp : speedOfCode sp = some spd) (hmps : mps ≠ 0) (hfs : ¬ (v = .FS ∧ spd = .HS)) :
    cfgSpeed v sp mps = some spd := by
  rw [← isFs_iff] at hfs
  simp only [cfgSpeed, hsp, if_neg (not_or_intro hmps hfs)]

/-- The three grounds on which CONFIG refuses its parameters (R111). -/
theorem cfgSpeed_of_illegal {v : Variant} {sp : BitVec 2} {mps : BitVec 11}
    (h : sp = 3 ∨ mps = 0 ∨ (v = .FS ∧ sp = 0)) : cfgSpeed v sp mps = none := by
  rcases h with rfl | rfl | ⟨rfl, rfl⟩
  · rfl
  · unfold cfgSpeed
    split
    · rfl
    · exact if_pos (.inl rfl)
  · exact if_pos (.inr ⟨rfl, rfl⟩)

/-- In DMA mode SUBMIT takes word-aligned buffers only (R122). -/
theorem subOk_aligned {v : Variant} {r : Channel} {dir : Dir} {et : EpType} {su : Bool}
    {len : BitVec 19} {buf : BitVec 32} (h : subOk v r dir et su len buf = true)
    (hv : v = .OTG true) : buf.toNat % 4 = 0 := by
  simp only [subOk, Bool.and_eq_true] at h
  obtain ⟨⟨-, halign⟩, -⟩ := h
  simpa [hv, dmaOn] using halign

/-! ## What an answer leaves unchanged -/

/-- A command that only answers changes nothing else (R145). -/
theorem onlyAnswers_of_respond {x : Result} {st : Status} {s : State} (h : x = respond st 0 s) :
    ∃ t, x = .next t ∧ OnlyAnswers st 0 s t := ⟨_, h, rfl⟩

/-- A command that writes its channel's record and answers. -/
theorem putChan_answered {c : Nat} {s : State} {x : Result} {st : Status} {r : Channel}
    (hc : c < s.nch) (h : x = respond st 0 (s.putChan c r)) :
    ∃ t, x = .next t ∧ ChannelFrame c s t ∧ SameMemory s t ∧ t.out = s.out
      ∧ t.resp = some (respWord st 0) ∧ t.chan c = r :=
  ⟨_, h, channelEffect_frame ((channelEffect_putChan c s r).tail (.respond _ _)),
    fun sp x => putChan_byteAt s c r sp x, rfl, rfl, chan_putChan_self r hc⟩

/-- A command that also emits records. -/
theorem apply_answered {c : Nat} {s : State} {x : Result} {st : Status} {a : ChanStep}
    (hc : c < s.nch) (h : x = respond st 0 (s.apply c a)) :
    ∃ t, x = .next t ∧ ChannelFrame c s t ∧ SameMemory s t ∧ t.resp = some (respWord st 0)
      ∧ t.chan c = a.ch ∧ t.out = s.out ++ a.out :=
  ⟨_, h, channelEffect_frame ((channelEffect_apply c s a).tail (.respond _ _)),
    fun sp x => apply_byteAt s c a sp x, rfl, chan_apply_self a hc, rfl⟩

/-! ## CONFIG, CONFIG_DBUF, HALT and the hub commands -/

/-- Settles O23: the check of R111 yields the speed, and an unarmed channel stays so. -/
theorem configConfiguresTheChannel : Obligations.ConfigConfiguresTheChannel := by
  intro c dir et sp spd da en mps s hc hunarmed hcode hmps hfs
  have hsp : speedOfCode sp = some spd := by
    simp only [List.mem_cons, Prod.mk.injEq, List.not_mem_nil, or_false] at hcode
    rcases hcode with ⟨rfl, rfl⟩ | ⟨rfl, rfl⟩ | ⟨rfl, rfl⟩ <;> rfl
  have hexec := exec_config_ok dir et da en hc hunarmed (cfgSpeed_of_legal hsp hmps hfs)
  simpa only [configure, hunarmed] using putChan_answered hc hexec

/-- Settles O24: with `en = 1` the slots pass the check of R116, with `en = 0` there is none. -/
theorem configDbufSetsTheSlots : Obligations.ConfigDbufSetsTheSlots := by
  intro c en b0 b1 s hc hconf hunarmed hslots
  have hok : ¬ (en = true ∧ dbufOk s.variant (s.chan c.toNat) b0 b1 = false) := fun ⟨hen, hbad⟩ =>
    Bool.noConfusion ((dbufOk_iff.2 (hslots hen)).symm.trans hbad)
  refine putChan_answered hc ?_
  rw [exec_configDbuf, ChannelReady.checked _ ⟨hc, hconf, hunarmed⟩, if_neg hok]
  rfl

/-- Settles O29: the one path of HALT that acts. -/
theorem haltCancelsTheTransfer : Obligations.HaltCancelsTheTransfer := fun _ _ hc harmed hpend =>
  apply_answered hc (exec_halt_live hc harmed hpend)

/-- Settles O30: the other path of HALT. -/
theorem haltIsIdempotent : Obligations.HaltIsIdempotent := fun _ _ hc hidle =>
  onlyAnswers_of_respond (exec_halt_idle hc hidle)

/-- The use of split tokens by variant and speed (R140). -/
theorem splitTokens_eq (v : Variant) (spd : Speed) :
    (!isFs v && decide (spd ≠ .HS)) = decide (v ≠ .FS ∧ spd ≠ .HS) := by
  cases v <;> simp [isFs]

/-- Settles O32: both commands write the routing of a channel that passes their checks. -/
theorem hubCommandsRouteTheChannel : Obligations.HubCommandsRouteTheChannel := by
  intro c ha hp s hc hconf hunarmed
  have hready : ChannelReady c s := ⟨hc, hconf, hunarmed⟩
  constructor
  · refine putChan_answered hc ?_
    rw [exec_setHub, hready.checked, splitTokens_eq]
    rfl
  · refine putChan_answered hc ?_
    rw [exec_clearHub, hready.checked]
    rfl

/-! ## The queries (R143, R144) -/

/-- A response of status OK is its data (R100, R101). -/
theorem respWord_ok_toNat (data : BitVec 60) : (respWord .OK data).toNat = data.toNat :=
  (BitVec.toNat_append (statusCode .OK) data).trans (by simp [statusCode])

/-- The DATA of GET_URB: `resched` in bit 3 above the URB code (R143). -/
theorem urbData_toNat (r : Channel) :
    (urbData r).toNat = (if r.resched = true then 8 else 0) + (urbCode r.urb).toNat := by
  unfold urbData
  generalize r.resched = b, urbCode r.urb = u
  revert b u
  decide

/-- A command that reads a channel answers its data, or ERR_RANGE for a missing one. -/
theorem query_answered {c : ChanIx} {s : State} {x : Result} {data : BitVec 60} {n : Nat}
    (h : x = if s.nch ≤ c.toNat then respond .ERR_RANGE 0 s else respond .OK data s)
    (hdata : data.toNat = n) :
    ∃ t r, x = .next t ∧ t = { s with resp := some r } ∧ (c.toNat < s.nch → r.toNat = n)
      ∧ (s.nch ≤ c.toNat → r.toNat = 1 * 2 ^ 60) := by
  rcases Nat.lt_or_ge c.toNat s.nch with hc | hc
  · rw [if_neg (Nat.not_le_of_lt hc)] at h
    exact ⟨_, _, h, rfl, fun _ => (respWord_ok_toNat data).trans hdata,
      fun hmissing => absurd hc (Nat.not_lt_of_le hmissing)⟩
  · rw [if_pos hc] at h
    exact ⟨_, _, h, rfl, fun hexists => absurd hc (Nat.not_le_of_lt hexists), fun _ => rfl⟩

/-- Settles O33: the data of both queries, read as numbers. -/
theorem queriesReadTheChannel : Obligations.QueriesReadTheChannel := by
  refine fun c s => ⟨query_answered (exec_getUrb c s) ?_, query_answered (exec_getCount c s) ?_⟩
  · rw [urbData_toNat]
    cases (s.chan c.toNat).urb <;> rfl
  · exact BitVec.toNat_setWidth_of_le (by decide)

/-! ## The synchronous errors (R145, R261) -/

/-- SET_HUB, CLEAR_HUB, CONFIG_DBUF and SUBMIT begin with the shared checks. -/
theorem exec_checked {i : Instr} {c : ChanIx} (s : State)
    (h : i = .clearHub c ∨ (∃ ha hp, i = .setHub c ha hp)
      ∨ (∃ en b0 b1, i = .configDbuf c en b0 b1)
      ∨ ∃ dir et su len buf, i = .submit c dir et su len buf) :
    ∃ r, exec i s = checked c s r := by
  rcases h with rfl | ⟨ha, hp, rfl⟩ | ⟨en, b0, b1, rfl⟩ | ⟨dir, et, su, len, buf, rfl⟩
  · exact ⟨_, exec_clearHub c s⟩
  · exact ⟨_, exec_setHub c s ha hp⟩
  · exact ⟨_, exec_configDbuf c s en b0 b1⟩
  · exact ⟨_, exec_submit c s dir et su len buf⟩

/-- CONFIG_DBUF answers ERR_PARAM for slots that break R116. -/
theorem exec_configDbuf_param {c : ChanIx} {s : State} {b0 b1 : BitVec 16}
    (h : ChannelReady c s) (hbad : ¬ dbufOk s.variant (s.chan c.toNat) b0 b1 = true) :
    exec (.configDbuf c true b0 b1) s = respond .ERR_PARAM 0 s := by
  rw [exec_configDbuf, h.checked, if_pos ⟨rfl, Bool.eq_false_of_not_eq_true hbad⟩]

/-- SUBMIT answers ERR_PARAM for a transfer that breaks R122. -/
theorem exec_submit_param {c : ChanIx} {s : State} {dir : Dir} {et : EpType} {su : Bool}
    {len : BitVec 19} {buf : BitVec 32} (h : ChannelReady c s)
    (hbad : ¬ subOk s.variant (s.chan c.toNat) dir et su len buf = true) :
    exec (.submit c dir et su len buf) s = respond .ERR_PARAM 0 s := by
  rw [exec_submit, h.checked, if_pos (Bool.eq_false_of_not_eq_true hbad)]

/-- Settles O34: each check in its place, the parameter checks by the clauses of R111, R116 and R122. -/
theorem commandsAnswerTheFirstFailingCheck : Obligations.CommandsAnswerTheFirstFailingCheck := by
  refine fun c s => ⟨fun i hi hmissing => ?_, fun i hi => ?_,
    fun dir et sp da en mps => ⟨fun hmissing => ?_, fun hc harmed => ?_, fun hc hunarmed hbad => ?_⟩,
    fun b0 b1 hc hconf hunarmed hbad => ?_, fun dir et su len buf hc hconf hunarmed hbad => ?_⟩
  · rcases hi with rfl | rfl | rfl
    · exact onlyAnswers_of_respond (exec_halt_range hmissing)
    · exact onlyAnswers_of_respond (if_pos hmissing)
    · exact onlyAnswers_of_respond (if_pos hmissing)
  · obtain ⟨r, hr⟩ := exec_checked s hi
    exact ⟨fun hmissing => onlyAnswers_of_respond (hr.trans (checked_range r hmissing)),
      fun hc hconf => onlyAnswers_of_respond (hr.trans (checked_notcfg r hc hconf)),
      fun hc hconf harmed => onlyAnswers_of_respond (hr.trans (checked_busy r hc hconf harmed))⟩
  · exact onlyAnswers_of_respond (exec_config_range dir et da en hmissing)
  · exact onlyAnswers_of_respond (exec_config_busy dir et da en hc harmed)
  · exact onlyAnswers_of_respond
      (exec_config_param dir et da en hc hunarmed (cfgSpeed_of_illegal hbad))
  · refine onlyAnswers_of_respond (exec_configDbuf_param ⟨hc, hconf, hunarmed⟩ fun hok => ?_)
    obtain ⟨hv, het, heven0, heven1, hend0, hend1, hapart⟩ := dbufOk_iff.1 hok
    rcases hbad with hv' | het' | het' | hslots
    · exact hv' hv
    · simp [het'] at het
    · simp [het'] at het
    · omega
  · refine onlyAnswers_of_respond (exec_submit_param ⟨hc, hconf, hunarmed⟩ fun hok => ?_)
    obtain ⟨hsu, hdbuf, hbuf⟩ := subOk_bounds hok
    rcases hbad with ⟨hs, hctrl⟩ | ⟨hd, het⟩ | ⟨hv, halign⟩ | hend
    · exact hctrl (hsu hs)
    · rcases het with rfl | rfl <;> simpa using hdbuf hd
    · exact halign (subOk_aligned hok hv)
    · exact Nat.not_le_of_lt hend hbuf

end Sys2Proof.Proofs
end

section
/-! SUPPORT. SUBMIT (R120 to R124, R221): a transfer that passes the checks, the preload of both slots, and what the ARM leaves. -/

namespace Sys2Proof.Proofs

open Sys2Proof.Machine Sys2Proof.Laws

/-! ## The transfer starts or fails to start (R121) -/

/-- SUBMIT of a transfer that passes the checks starts it with the record of R121. -/
theorem exec_submit_ok {c : ChanIx} {dir : Dir} {et : EpType} {su : Bool} {len : BitVec 19}
    {buf : BitVec 32} {s : State} (h : ChannelReady c s)
    (hok : subOk s.variant (s.chan c.toNat) dir et su len buf = true) :
    exec (.submit c dir et su len buf) s =
      startTransfer c (submittedRecord dir et su len buf s.draws.frame (s.chan c.toNat)) s := by
  rw [exec_submit, h.checked, if_neg (by simp [hok]), programTransfer_eq]

/-- A transfer that starts is answered with one ARM, after whatever its preload did. -/
theorem startTransfer_armed {c : ChanIx} {r : Channel} {s s2 : State} (hc : c.toNat < s.nch)
    (hw : s.draws.hwOk = true) (hpre : preloadIfDbuf c.toNat (s.putChan c.toNat r) = .ok s2) :
    ∃ t, startTransfer c r s = .next t ∧ ChannelFrame c.toNat s t ∧ SameMemory s2 t
      ∧ t.resp = some (respWord .OK 0)
      ∧ t.chan c.toNat = { s2.chan c.toNat with armed := true }
      ∧ t.out = s2.out ++ [armOf c.toNat (s2.chan c.toNat)] := by
  have hframe : ChannelFrame c.toNat s s2 := channelEffect_frame
    ((channelEffect_putChan c.toNat s r).trans (preloadIfDbuf_effect hpre))
  have hstart : startTransfer c r s =
      respond .OK 0 (s2.apply c.toNat (armSubmitted c.toNat (s2.chan c.toNat))) := by
    simp only [startTransfer, hw, hpre, Bool.true_eq_false, if_false]
  obtain ⟨t, ht, hframe', hmem, hresp, hchan, hout⟩ :=
    apply_answered (hframe.nch.symm ▸ hc : c.toNat < s2.nch) hstart
  rw [← armRecord_eq]
  exact ⟨t, ht, channelFrame_trans hframe hframe', hmem, hresp, hchan, hout⟩

/-- Settles O25: without double buffering there is no preload. -/
theorem submitArmsTheTransfer : Obligations.SubmitArmsTheTransfer := by
  intro c dir et su len buf s r hc hconf hunarmed hdbuf hsu halign hbuf hw hr
  have hok : subOk s.variant (s.chan c.toNat) dir et su len buf = true :=
    subOk_of hsu (fun hd => Bool.noConfusion (hdbuf.symm.trans hd)) halign hbuf
  have hput : (s.putChan c.toNat r).chan c.toNat = r := chan_putChan_self r hc
  have hrd : r.dbufEn = false := hr ▸ hdbuf
  have hpre : preloadIfDbuf c.toNat (s.putChan c.toNat r) = .ok (s.putChan c.toNat r) :=
    if_neg (by simp [hput, hrd])
  obtain ⟨t, ht, hframe, hmem, hresp, hchan, hout⟩ := startTransfer_armed hc hw hpre
  rw [hput] at hchan hout
  refine ⟨t, ?_, hframe, fun sp x => ?_, hresp, hchan, hout⟩
  · rw [exec_submit_ok ⟨hc, hconf, hunarmed⟩ hok, ← hr, ht]
  · rw [hmem sp x, putChan_byteAt]

/-- Settles O26: the record is written, and the preload and the ARM are not reached. -/
theorem submitReportsAStartFailure : Obligations.SubmitReportsAStartFailure := by
  intro c dir et su len buf s hc hconf hunarmed hdbuf hsu halign hbuf hw
  refine putChan_answered hc ?_
  rw [exec_submit_ok ⟨hc, hconf, hunarmed⟩ (subOk_of hsu hdbuf halign hbuf), startTransfer,
    if_pos hw]

/-! ## Giving a slot (R221) -/

/-- The record that giving slot `b` of channel `i` emits: LOAD for OUT, RELEASE for IN (R221). -/
def slotRecord (i : Nat) (dir : Dir) (b : Bool) (m : Nat) : OutRec :=
  match dir with
  | .OUT => .LOAD i b m
  | .IN => .RELEASE i b

section Give

variable {i m : Nat} {b : Bool} {s t : State}

theorem give_out (h : give i b m s = .ok t) :
    t.out = s.out ++ [slotRecord i (s.chan i).dir b m] := by
  rcases give_spec h with ⟨hd, -, -, rfl⟩ | ⟨hd, rfl⟩
  · rw [hd]; rfl
  · rw [hd]; rfl

/-- Granting an IN slot moves no byte. -/
theorem give_sameMemory {r : Channel} (hr : s.chan i = r) (hd : r.dir = .IN)
    (h : give i b m s = .ok t) : SameMemory s t := by
  subst hr
  rcases give_spec h with ⟨hd', -⟩ | ⟨-, rfl⟩
  · cases hd.symm.trans hd'
  · intro sp x
    rw [emit_byteAt, putChan_byteAt]

/-- Filling an OUT slot copies the next part of the buffer into it and moves no other byte. -/
theorem give_fills {r : Channel} (hr : s.chan i = r) (hd : r.dir = .OUT)
    (h : give i b m s = .ok t) :
    (∀ k, k < m → t.byteAt .PMA (bufAddr r b + k) =
        s.byteAt .SYS (r.xferBuf.toNat + r.loaded.toNat + k))
      ∧ SameMemoryOutside .PMA (bufAddr r b) m s t := by
  subst hr
  rcases give_spec h with ⟨-, -, -, rfl⟩ | ⟨hd', -⟩
  · refine ⟨fun k hk => ?_, fun sp x hx => ?_⟩
    · rw [emit_byteAt, putChan_byteAt, ← bytesAt_getElem s .SYS _ m k (by simpa using hk)]
      exact byteAt_putMem_inside s .PMA _ k _ _
    · rw [emit_byteAt, putChan_byteAt]
      exact byteAt_putMem_outside s .PMA sp _ x _ (by simpa using hx)
  · cases hd.symm.trans hd'

end Give

/-! ## The preload (R221) -/

/-- The record of a channel during its preload: slot 0 is first in turn, and `n` bytes of the transfer have been given (R221). -/
def withLoaded (n : BitVec 19) (r : Channel) : Channel := { r with swBuf := false, loaded := n }

@[simp] theorem withLoaded_dir (n : BitVec 19) (r : Channel) : (withLoaded n r).dir = r.dir := rfl

/-- An IN preload always completes. -/
theorem preload_completes_in {i : Nat} {s : State} (hi : i < s.nch)
    (hd : (s.chan i).dir = .IN) : ∃ t, preload i s = .ok t := by
  generalize hs0 : s.putChan i { s.chan i with swBuf := false, loaded := 0 } = s0
  have hd0 : (s0.chan i).dir = .IN := by
    rw [← hs0, chan_putChan_self _ hi]
    exact hd
  have hi0 : i < s0.nch := by simpa [← hs0] using hi
  have hgive : ∀ (u : State) (b : Bool) (m : Nat), (u.chan i).dir = .IN →
      ∃ t, give i b m u = .ok t := fun u b m hu =>
    give_completes fun hout => Dir.noConfusion (hu.symm.trans hout)
  obtain ⟨s1, hs1⟩ := hgive s0 false (nextPart (s0.chan i)) hd0
  simp only [preload, hs0, hs1]
  split
  · refine hgive s1 true _ ?_
    rw [give_chan hi0 hs1]
    exact hd0
  · exact ⟨s1, rfl⟩

/-- A part of a transfer fits the 19 bits of `loaded` (R37). -/
theorem ofNat_toNat_of_le {len : BitVec 19} {m : Nat} (h : m ≤ len.toNat) :
    (BitVec.ofNat 19 m).toNat = m := Nat.mod_eq_of_lt (h.trans_lt len.isLt)

/-- A byte of system memory is no byte of packet memory. -/
theorem ne_pma_or_of_sys_or {sp : Space} {p : Prop} (h : sp = .SYS ∨ p) : sp ≠ .PMA ∨ p :=
  h.imp_left fun hsys => by simp [hsys]

section Preload

variable {i m0 m1 : Nat} {r : Channel} {s t : State} (hi : i < s.nch) (hr : s.chan i = r)
  (hm0 : m0 = min r.mps.toNat r.xferLen.toNat)
  (hm1 : m1 = min r.mps.toNat (r.xferLen.toNat - m0))
  (h : preload i s = .ok t)
include hi hr hm0 hm1 h

/-- The preload gives slot 0 the first packet, and slot 1 the next if any of the transfer is left. -/
theorem preload_gives :
    ∃ s1, give i false m0 (s.putChan i (withLoaded 0 r)) = .ok s1
      ∧ s1.chan i = withLoaded (BitVec.ofNat 19 m0) r
      ∧ ((m0 < r.xferLen.toNat ∧ give i true m1 s1 = .ok t)
        ∨ (¬ m0 < r.xferLen.toNat ∧ m1 = 0 ∧ t = s1)) := by
  subst hr
  obtain ⟨s0, s1, hs0, hslot0, hslot1⟩ := preload_spec h
  have hs0' : s0 = s.putChan i (withLoaded 0 (s.chan i)) := hs0
  subst hs0'
  have hstart := chan_putChan_self (withLoaded 0 (s.chan i)) hi
  have hs1 := give_chan (by simpa using hi) hslot0
  have hfirst : nextPart (withLoaded 0 (s.chan i)) = m0 := hm0.symm
  rw [hstart, hfirst] at hslot0 hs1
  have hs1' : s1.chan i = withLoaded (BitVec.ofNat 19 m0) (s.chan i) := by
    rw [hs1]
    simp [withLoaded]
  have hloaded : (BitVec.ofNat 19 m0).toNat = m0 :=
    ofNat_toNat_of_le (hm0 ▸ Nat.min_le_right _ _)
  have hsecond : nextPart (s1.chan i) = m1 := by
    rw [hs1', nextPart, withLoaded, hloaded, hm1]
  rw [hsecond, hs1', withLoaded, hloaded] at hslot1
  refine ⟨s1, hslot0, hs1', hslot1.imp_right fun ⟨hall, ht⟩ => ⟨hall, ?_, ht⟩⟩
  have hnone : (s.chan i).xferLen.toNat - m0 = 0 := Nat.sub_eq_zero_of_le (Nat.le_of_not_lt hall)
  rw [hm1, hnone, Nat.min_zero]

theorem preload_chan : t.chan i = withLoaded (BitVec.ofNat 19 (m0 + m1)) r := by
  subst hr
  obtain ⟨s1, hslot0, hs1, ⟨-, hslot1⟩ | ⟨-, rfl, rfl⟩⟩ := preload_gives hi rfl hm0 hm1 h
  · obtain ⟨-, hnch, -⟩ := give_frame hslot0
    have hi1 : i < s1.nch := by simpa [hnch] using hi
    rw [give_chan hi1 hslot1, hs1]
    simp only [withLoaded, BitVec.ofNat_add, BitVec.ofNat_toNat, BitVec.setWidth_eq]
  · exact hs1

theorem preload_out :
    t.out = s.out ++ [slotRecord i r.dir false m0]
      ++ (if m0 < r.xferLen.toNat then [slotRecord i r.dir true m1] else []) := by
  subst hr
  obtain ⟨s1, hslot0, hs1, hslot1⟩ := preload_gives hi rfl hm0 hm1 h
  have hout0 := give_out hslot0
  rw [chan_putChan_self _ hi, putChan_out, withLoaded_dir] at hout0
  rcases hslot1 with ⟨hleft, hslot1⟩ | ⟨hall, -, rfl⟩
  · rw [if_pos hleft, give_out hslot1, hout0, hs1, withLoaded_dir]
  · rw [if_neg hall, hout0, List.append_nil]

/-- An IN preload moves no byte. -/
theorem preload_sameMemory (hd : r.dir = .IN) : SameMemory s t := by
  subst hr
  obtain ⟨s1, hslot0, hs1, hslot1⟩ := preload_gives hi rfl hm0 hm1 h
  have hmem0 : SameMemory _ s1 :=
    give_sameMemory (r := withLoaded 0 (s.chan i)) (chan_putChan_self _ hi) hd hslot0
  intro sp x
  rcases hslot1 with ⟨-, hslot1⟩ | ⟨-, -, rfl⟩
  · rw [give_sameMemory hs1 hd hslot1 sp x, hmem0 sp x, putChan_byteAt]
  · rw [hmem0 sp x, putChan_byteAt]

/-- An OUT preload copies the first two packets of the buffer into slots that lie apart, and moves no other byte. -/
theorem preload_fills (hd : r.dir = .OUT)
    (hapart : bufAddr r false + m0 ≤ bufAddr r true
      ∨ bufAddr r true + m1 ≤ bufAddr r false) :
    (∀ k, k < m0 → t.byteAt .PMA (bufAddr r false + k) =
        s.byteAt .SYS (r.xferBuf.toNat + k))
      ∧ (∀ k, k < m1 → t.byteAt .PMA (bufAddr r true + k) =
        s.byteAt .SYS (r.xferBuf.toNat + m0 + k))
      ∧ ∀ sp x, (sp = .SYS
          ∨ ((x < bufAddr r false ∨ bufAddr r false + m0 ≤ x)
            ∧ (x < bufAddr r true ∨ bufAddr r true + m1 ≤ x))) →
        t.byteAt sp x = s.byteAt sp x := by
  subst hr
  obtain ⟨s1, hslot0, hs1, hslot1⟩ := preload_gives hi rfl hm0 hm1 h
  obtain ⟨hfill0, hsame0⟩ := give_fills (r := withLoaded 0 (s.chan i)) (chan_putChan_self _ hi)
    hd hslot0
  have hfirst : ∀ k, k < m0 → s1.byteAt .PMA (bufAddr (s.chan i) false + k) =
      s.byteAt .SYS ((s.chan i).xferBuf.toNat + k) := fun k hk =>
    (hfill0 k hk).trans (putChan_byteAt ..)
  have hrest : SameMemoryOutside .PMA (bufAddr (s.chan i) false) m0 s s1 := fun sp x hx =>
    (hsame0 sp x hx).trans (putChan_byteAt ..)
  rcases hslot1 with ⟨hleft, hslot1⟩ | ⟨-, rfl, rfl⟩
  · obtain ⟨hfill1, hsame1⟩ := give_fills hs1 hd hslot1
    refine ⟨fun k hk => ?_, fun k hk => ?_, fun sp x hx => ?_⟩
    · rw [hsame1 .PMA _ (.inr ?_), hfirst k hk]
      simp only [bufAddr, withLoaded] at hapart ⊢
      omega
    · have hcopied := hfill1 k hk
      rw [hrest .SYS _ (.inl Space.noConfusion), withLoaded,
        ofNat_toNat_of_le (Nat.le_of_lt hleft)] at hcopied
      exact hcopied
    · exact (hsame1 sp x (ne_pma_or_of_sys_or (hx.imp_right And.right))).trans
        (hrest sp x (ne_pma_or_of_sys_or (hx.imp_right And.left)))
  · exact ⟨hfirst, fun k hk => absurd hk (Nat.not_lt_zero k), fun sp x hx =>
      hrest sp x (ne_pma_or_of_sys_or (hx.imp_right And.left))⟩

end Preload

/-! ## SUBMIT on a double-buffered channel (R121, R221) -/

/-- A transfer on a double-buffered channel gives its slots, then arms. -/
theorem startTransfer_preloaded {c : ChanIx} {r : Channel} {s s2 : State} {m0 m1 : Nat}
    (hc : c.toNat < s.nch) (hw : s.draws.hwOk = true) (hd : r.dbufEn = true)
    (hm0 : m0 = min r.mps.toNat r.xferLen.toNat)
    (hm1 : m1 = min r.mps.toNat (r.xferLen.toNat - m0))
    (hpre : preload c.toNat (s.putChan c.toNat r) = .ok s2) :
    ∃ t, startTransfer c r s = .next t ∧ ChannelFrame c.toNat s t ∧ SameMemory s2 t
      ∧ t.resp = some (respWord .OK 0)
      ∧ t.chan c.toNat =
        { r with swBuf := false, loaded := BitVec.ofNat 19 (m0 + m1), armed := true }
      ∧ t.out = s.out ++ [slotRecord c.toNat r.dir false m0]
        ++ (if m0 < r.xferLen.toNat then [slotRecord c.toNat r.dir true m1] else [])
        ++ [armOf c.toNat r] := by
  have hput : (s.putChan c.toNat r).chan c.toNat = r := chan_putChan_self r hc
  have hc' : c.toNat < (s.putChan c.toNat r).nch := by simpa using hc
  have hpre' : preloadIfDbuf c.toNat (s.putChan c.toNat r) = .ok s2 := by
    rw [preloadIfDbuf, hput, if_pos hd, hpre]
  obtain ⟨t, ht, hframe, hmem, hresp, hchan, hout⟩ := startTransfer_armed hc hw hpre'
  rw [preload_chan hc' hput hm0 hm1 hpre] at hchan hout
  rw [preload_out hc' hput hm0 hm1 hpre] at hout
  exact ⟨t, ht, hframe, hmem, hresp, hchan, hout⟩

/-- On the FS variant the checks of SUBMIT ask a double-buffered transfer for its endpoint type and its buffer only (R122). -/
theorem exec_submit_dbuf {c : ChanIx} {dir : Dir} {et : EpType} {len : BitVec 19}
    {buf : BitVec 32} {s : State} {r : Channel} (h : ChannelReady c s) (hv : s.variant = .FS)
    (het : et = .BULK ∨ et = .ISOC) (hbuf : buf.toNat + len.toNat ≤ 2 ^ 32)
    (hr : r = submittedRecord dir et false len buf s.draws.frame (s.chan c.toNat)) :
    exec (.submit c dir et false len buf) s = startTransfer c r s := by
  rw [hr]
  exact exec_submit_ok h (subOk_of Bool.noConfusion (fun _ => het)
    (fun hotg => by cases hv.symm.trans hotg) hbuf)

/-- Settles O27: the slots exist and lie apart, so the preload completes and fills both. -/
theorem submitPreloadsBothSlotsForOut : Obligations.SubmitPreloadsBothSlotsForOut := by
  intro c et len buf s r a0 a1 m0 m1 hc hv hconf hunarmed hd het hbuf hw ha0 ha1 hend0 hend1
    hapart hm0 hm1 hr
  have hexec := exec_submit_dbuf ⟨hc, hconf, hunarmed⟩ hv het hbuf hr
  have hdir : r.dir = .OUT := congrArg Channel.dir hr
  have hmps : r.mps = (s.chan c.toNat).mps := (congrArg Channel.mps hr).trans rfl
  have hlen : r.xferLen = len := congrArg Channel.xferLen hr
  have hsrc : r.xferBuf = buf := congrArg Channel.xferBuf hr
  have hdbuf : r.dbufEn = true := (congrArg Channel.dbufEn hr).trans hd
  have hslot0 : bufAddr r false = a0 := (congrArg (bufAddr · false) hr).trans ha0.symm
  have hslot1 : bufAddr r true = a1 := (congrArg (bufAddr · true) hr).trans ha1.symm
  have hput : (s.putChan c.toNat r).chan c.toNat = r := chan_putChan_self r hc
  have hc' : c.toNat < (s.putChan c.toNat r).nch := by simpa using hc
  rw [← hmps] at hend0 hend1 hapart hm0 hm1
  rw [← hlen] at hbuf hm0 hm1
  rw [← hsrc] at hbuf
  obtain ⟨s2, hpre⟩ := preload_completes hc' (by
    rw [hput]
    refine ⟨hv, hbuf, fun b => ?_⟩
    cases b with
    | false => rwa [hslot0]
    | true => rwa [hslot1])
  have hfills := preload_fills hc' hput hm0 hm1 hpre hdir (by omega)
  simp only [hslot0, hslot1, hsrc, putChan_byteAt] at hfills
  obtain ⟨hfirst, hsecond, hrest⟩ := hfills
  obtain ⟨t, ht, hframe, hmem, hresp, hchan, hout⟩ :=
    startTransfer_preloaded hc hw hdbuf hm0 hm1 hpre
  rw [hdir, hlen] at hout
  exact ⟨t, hexec.trans ht, hframe, hresp, hchan, hout,
    fun k hk => (hmem _ _).trans (hfirst k hk), fun k hk => (hmem _ _).trans (hsecond k hk),
    fun sp x hx => (hmem sp x).trans (hrest sp x hx)⟩

/-- Settles O28: granting a slot needs no memory, so the preload completes. -/
theorem submitGrantsBothSlotsForIn : Obligations.SubmitGrantsBothSlotsForIn := by
  intro c et len buf s r m0 m1 hc hv hconf hunarmed hd het hbuf hw hm0 hm1 hr
  have hexec := exec_submit_dbuf ⟨hc, hconf, hunarmed⟩ hv het hbuf hr
  have hdir : r.dir = .IN := congrArg Channel.dir hr
  have hmps : r.mps = (s.chan c.toNat).mps := (congrArg Channel.mps hr).trans rfl
  have hlen : r.xferLen = len := congrArg Channel.xferLen hr
  have hdbuf : r.dbufEn = true := (congrArg Channel.dbufEn hr).trans hd
  have hput : (s.putChan c.toNat r).chan c.toNat = r := chan_putChan_self r hc
  have hc' : c.toNat < (s.putChan c.toNat r).nch := by simpa using hc
  rw [← hmps, ← hlen] at hm0 hm1
  obtain ⟨s2, hpre⟩ := preload_completes_in hc' (by rwa [hput])
  have hsame := preload_sameMemory hc' hput hm0 hm1 hpre hdir
  obtain ⟨t, ht, hframe, hmem, hresp, hchan, hout⟩ :=
    startTransfer_preloaded hc hw hdbuf hm0 hm1 hpre
  rw [hdir, hlen] at hout
  refine ⟨t, hexec.trans ht, hframe, fun sp x => ?_, hresp, hchan, hout⟩
  rw [hmem sp x, hsame sp x, putChan_byteAt]

end Sys2Proof.Proofs
end

section
/-! SUPPORT. URB notifications (R146): no word but DISPATCH and EV_DBUF_ACK emits one. -/

namespace Sys2Proof.Proofs

open Sys2Proof.Machine Sys2Proof.Laws

/-- The log from `s` to `t` gains records of which none is a URB notification (R102, R146). -/
def Unnotified (s t : State) : Prop :=
  ∃ rs, t.out = s.out ++ rs ∧ ∀ j u, OutRec.URB j u ∉ rs

theorem Unnotified.of_out {s t : State} (h : t.out = s.out) : Unnotified s t :=
  ⟨[], by simp [h], by simp⟩

theorem Unnotified.trans {s t v : State} (h₁ : Unnotified s t) (h₂ : Unnotified t v) :
    Unnotified s v := by
  obtain ⟨rs₁, hout₁, hno₁⟩ := h₁
  obtain ⟨rs₂, hout₂, hno₂⟩ := h₂
  refine ⟨rs₁ ++ rs₂, by rw [hout₂, hout₁, List.append_assoc], fun j u hmem => ?_⟩
  exact (List.mem_append.1 hmem).elim (hno₁ j u) (hno₂ j u)

/-! ## The operations -/

section Operations

variable {s t : State}

theorem Unnotified.putChan (i : Nat) (r : Channel) : Unnotified s (s.putChan i r) := .of_out rfl

theorem Unnotified.apply (i : Nat) {a : ChanStep} (h : ∀ j u, OutRec.URB j u ∉ a.out) :
    Unnotified s (s.apply i a) := ⟨a.out, rfl, h⟩

theorem unnotified_respond (h : Unnotified s t) (st : Status) (data : BitVec 60) :
    Ends (Unnotified s) (respond st data t) := .next h

/-- A command emits nothing by its answer, nor by the write of its record before. -/
theorem unnotified_answer (h : t.out = s.out) (st : Status) (data : BitVec 60) :
    Ends (Unnotified s) (respond st data t) := unnotified_respond (.of_out h) st data

theorem give_unnotified {i m : Nat} {b : Bool} (h : give i b m s = .ok t) : Unnotified s t := by
  refine ⟨_, give_out h, fun j u => ?_⟩
  cases (s.chan i).dir <;> simp [slotRecord]

theorem preload_unnotified {i : Nat} (h : preload i s = .ok t) : Unnotified s t := by
  obtain ⟨s0, s1, rfl, hslot0, hslot1⟩ := preload_spec h
  have hs1 : Unnotified s s1 := (Unnotified.putChan i _).trans (give_unnotified hslot0)
  rcases hslot1 with ⟨-, hslot1⟩ | ⟨-, rfl⟩
  · exact hs1.trans (give_unnotified hslot1)
  · exact hs1

theorem preloadIfDbuf_unnotified {i : Nat} (h : preloadIfDbuf i s = .ok t) : Unnotified s t := by
  unfold preloadIfDbuf at h
  split at h
  · exact preload_unnotified h
  · cases h
    exact .of_out rfl

/-- A packet that passes the requested length requests a halt at most (R196). -/
theorem overflow_unnotified (i : Nat) (c : Channel) (j : Nat) (u : UrbState) :
    OutRec.URB j u ∉ (overflow i c).out := by
  unfold overflow
  split <;> simp

/-- An accepted packet re-arms its channel at most (R196). -/
theorem acceptPacket_unnotified (i : Nat) (n : BitVec 19) (more : Bool) (c : Channel) (j : Nat)
    (u : UrbState) : OutRec.URB j u ∉ (acceptPacket i n more c).out := by
  by_cases h : n.toNat = c.mps.toNat ∧ more = true
  · rw [acceptPacket_full i h]
    split <;> simp [armRecord]
  · simp [acceptPacket_last i h]

/-- A port event emits port callbacks and the flush only (R251 to R255). -/
theorem portEvent_unnotified (e : PortEvent) (spd : Speed) (s : State) :
    Unnotified s (portEvent e spd s) := by
  cases e with
  | CONNECT => exact ⟨_, rfl, by simp⟩
  | DISCONNECT => exact ⟨_, rfl, by simp⟩
  | ENABLE => exact ⟨_, rfl, by simp⟩
  | DISABLE => exact ⟨_, rfl, by simp⟩
  | OVERCURRENT => exact .of_out rfl

end Operations

/-! ## The instructions -/

section Instructions

variable (c : ChanIx) (s : State)

theorem checked_unnotified {r : Result} (h : Ends (Unnotified s) r) :
    Ends (Unnotified s) (checked c s r) :=
  .ite (unnotified_answer rfl _ _) <| .ite (unnotified_answer rfl _ _) <|
    .ite (unnotified_answer rfl _ _) h

theorem execConfig_unnotified (dir : Dir) (et : EpType) (sp : BitVec 2) (da : BitVec 7)
    (en : BitVec 4) (mps : BitVec 11) :
    Ends (Unnotified s) (execConfig c dir et sp da en mps s) := by
  unfold execConfig
  refine .ite (unnotified_answer rfl _ _) <| .ite (unnotified_answer rfl _ _) ?_
  cases cfgSpeed s.variant sp mps with
  | none => exact unnotified_answer rfl _ _
  | some spd => exact unnotified_answer rfl _ _

/-- SUBMIT emits the records of its preload and the ARM (R121). -/
theorem startTransfer_unnotified (r : Channel) : Ends (Unnotified s) (startTransfer c r s) := by
  unfold startTransfer
  refine .ite (unnotified_answer rfl _ _) ?_
  split
  · exact .fault _
  · next s2 hpre =>
    have hs2 := (Unnotified.putChan c.toNat r).trans (preloadIfDbuf_unnotified hpre)
    exact unnotified_respond
      (hs2.trans (.apply _ fun j u => by simp [armSubmitted, armRecord])) _ _

theorem execHalt_unnotified : Ends (Unnotified s) (execHalt c s) :=
  .ite (unnotified_answer rfl _ _) <| .ite (unnotified_answer rfl _ _) <|
    unnotified_respond (.apply _ fun j u => by simp [haltNow]) _ _

theorem latchEvent_unnotified (k : ChanEvent) (w : Word) :
    Ends (Unnotified s) (latchEvent k c w s) := .ite (.next (.of_out rfl)) (.next (.of_out rfl))

theorem execEvXfrc_unnotified (resid : BitVec 19) :
    Ends (Unnotified s) (execEvXfrc c resid s) :=
  .ite (.next (.of_out rfl)) <| .ite (.next (.of_out rfl)) <| .ite (.next (.of_out rfl)) <|
    .next (.of_out rfl)

theorem execEvPkt_unnotified (n : BitVec 19) (more : Bool) :
    Ends (Unnotified s) (execEvPkt c n more s) := by
  unfold execEvPkt
  refine .ite (.next (.of_out rfl)) <| .ite (.next (.of_out rfl)) <|
    .ite (.next (.apply _ (overflow_unnotified _ _))) ?_
  split
  · exact .fault _
  · next s1 hw =>
    exact .next ((Unnotified.of_out (out_of_memWrite hw)).trans
      (.apply _ (acceptPacket_unnotified _ n more _)))

theorem execEvPort_unnotified (pev : BitVec 3) (sp : BitVec 2) :
    Ends (Unnotified s) (execEvPort pev sp s) := by
  unfold execEvPort
  split
  · exact .ite (.next (portEvent_unnotified _ _ s)) (.next (.of_out rfl))
  · exact .next (.of_out rfl)
  · exact .next (.of_out rfl)

end Instructions

/-- Settles O22, by cases on the instruction: of the shared operations only `report` emits a URB record, and only the two excluded instructions call it. -/
theorem onlyEventHandlingNotifies : Obligations.OnlyEventHandlingNotifies := by
  intro i s t hdispatch hack ht
  suffices h : Ends (Unnotified s) (exec i s) from h t ht
  cases i with
  | config c dir et sp da en mps => exact execConfig_unnotified c s dir et sp da en mps
  | configDbuf c en b0 b1 =>
    exact checked_unnotified c s <| .ite (unnotified_answer rfl _ _) (unnotified_answer rfl _ _)
  | submit c dir et su len buf =>
    exact checked_unnotified c s <| .ite (unnotified_answer rfl _ _)
      (startTransfer_unnotified c s _)
  | halt c => exact execHalt_unnotified c s
  | setHub c ha hp => exact checked_unnotified c s (unnotified_answer rfl _ _)
  | clearHub c => exact checked_unnotified c s (unnotified_answer rfl _ _)
  | getUrb c => exact .ite (unnotified_answer rfl _ _) (unnotified_answer rfl _ _)
  | getCount c => exact .ite (unnotified_answer rfl _ _) (unnotified_answer rfl _ _)
  | evXfrc c resid => exact execEvXfrc_unnotified c s resid
  | evAck c => exact latchEvent_unnotified c s .ACK _
  | evNak c => exact latchEvent_unnotified c s .NAK _
  | evStall c => exact latchEvent_unnotified c s .STALL _
  | evXacterr c => exact latchEvent_unnotified c s .XACTERR _
  | evBblerr c => exact latchEvent_unnotified c s .BBLERR _
  | evDterr c => exact latchEvent_unnotified c s .DTERR _
  | evFrmor c => exact latchEvent_unnotified c s .FRMOR _
  | evNyet c => exact latchEvent_unnotified c s .NYET _
  | evChh c => exact latchEvent_unnotified c s .CHH _
  | evPkt c n more => exact execEvPkt_unnotified c s n more
  | evDbufAck c b n => exact absurd rfl (hack c b n)
  | evPort pev sp => exact execEvPort_unnotified s pev sp
  | dispatch => exact absurd rfl hdispatch

end Sys2Proof.Proofs
end

section
/-! SUPPORT. The event words that a channel does not process: those no rule can process, which fault (R150, R196, R222, R263), and the packets that are babble (R173, R196, R222). -/

namespace Sys2Proof.Proofs

open Sys2Proof.Machine Sys2Proof.Laws

/-! ## Events that contradict the channel or the variant -/

/-- A meaning that raises a fault changes nothing else (R262). -/
theorem onlyFaults_of_raiseFault {x : Result} {code : FaultCode} {w : Word} {s : State}
    (h : x = .next (raiseFault code w s)) : ∃ t, x = .next t ∧ OnlyFaults code w s t := ⟨_, h, rfl⟩

/-- The FS variant and the DMA mode are all but the OTG variant without DMA (R9, R10). -/
theorem isFs_or_dmaOn_iff (v : Variant) : isFs v = true ∨ dmaOn v = true ↔ v ≠ .OTG false := by
  cases v with
  | FS => simp [isFs]
  | OTG d => cases d <;> simp [isFs, dmaOn]

theorem isFs_eq_false_iff (v : Variant) : isFs v = false ↔ v ≠ .FS := by
  rw [← Bool.not_eq_true, isFs_iff]

section Events

variable {c : ChanIx} {s : State}

/-- Each of the twelve channel events refuses a missing channel first (R150, R196, R222). -/
theorem exec_event_range {i : Instr} (hc : s.nch ≤ c.toNat)
    (hi : (∃ k, eventWord k c = some i) ∨ (∃ r, i = .evXfrc c r) ∨ (∃ n m, i = .evPkt c n m)
      ∨ ∃ b n, i = .evDbufAck c b n) :
    exec i s = .next (raiseFault .CH_RANGE (encode i) s) := by
  rcases hi with ⟨k, hk⟩ | ⟨r, rfl⟩ | ⟨n, m, rfl⟩ | ⟨b, n, rfl⟩
  · exact (exec_eventWord s hk).trans (if_pos hc)
  · exact if_pos hc
  · exact if_pos hc
  · exact if_pos hc

theorem exec_evXfrc_unexpected {r : BitVec 19} (hc : c.toNat < s.nch)
    (h : (s.variant = .FS ∧ (s.chan c.toNat).dbufEn = true)
      ∨ (s.chan c.toNat).xferLen.toNat < r.toNat) :
    exec (.evXfrc c r) s = .next (raiseFault .UNEXPECTED_EVENT (encode (.evXfrc c r)) s) := by
  rw [← isFs_iff] at h
  rw [exec, execEvXfrc, if_neg (Nat.not_le_of_lt hc)]
  split
  · rfl
  · next hdbuf => exact if_pos (h.resolve_left hdbuf)

theorem exec_evPkt_unexpected {n : BitVec 19} {more : Bool} (hc : c.toNat < s.nch)
    (h : s.variant ≠ .OTG false ∨ (s.chan c.toNat).dir = .OUT ∨ (s.chan c.toNat).armed = false) :
    exec (.evPkt c n more) s =
      .next (raiseFault .UNEXPECTED_EVENT (encode (.evPkt c n more)) s) := by
  rw [← isFs_or_dmaOn_iff, or_assoc] at h
  rw [exec, execEvPkt, if_neg (Nat.not_le_of_lt hc), if_pos h]

theorem exec_evDbufAck_unexpected {b : Bool} {n : BitVec 19} (hc : c.toNat < s.nch)
    (h : s.variant ≠ .FS ∨ (s.chan c.toNat).dbufEn = false ∨ (s.chan c.toNat).armed = false) :
    exec (.evDbufAck c b n) s =
      .next (raiseFault .UNEXPECTED_EVENT (encode (.evDbufAck c b n)) s) := by
  rw [← isFs_eq_false_iff] at h
  rw [exec, execEvDbufAck, if_neg (Nat.not_le_of_lt hc), if_pos h]

/-- Settles O37: the checks of the event words, in the order in which they stand. -/
theorem contradictoryEventsFault : Obligations.ContradictoryEventsFault := fun _ _ =>
  ⟨fun hc _ hi => onlyFaults_of_raiseFault (exec_event_range hc hi),
    fun hc _ h => onlyFaults_of_raiseFault (exec_evXfrc_unexpected hc h),
    fun hc _ _ h => onlyFaults_of_raiseFault (exec_evPkt_unexpected hc h),
    fun hc _ _ h => onlyFaults_of_raiseFault (exec_evDbufAck_unexpected hc h)⟩

end Events

/-! ## Babble -/

/-- A meaning that applies a handler's answer to channel i changes its record and the log, and nothing else (R73). -/
theorem exists_framed_of_apply {x : Result} {i : Nat} {s : State} {a : ChanStep} {P : State → Prop}
    (hi : i < s.nch) (hx : x = .next (s.apply i a))
    (hP : ∀ t, t.chan i = a.ch → t.out = s.out ++ a.out → P t) :
    ∃ t, x = .next t ∧ ChannelFrame i s t ∧ SameMemory s t ∧ t.resp = s.resp ∧ P t :=
  ⟨_, hx, channelEffect_frame (channelEffect_apply i s a), fun sp y => apply_byteAt s i a sp y,
    rfl, hP _ (chan_apply_self a hi) rfl⟩

/-- A handler that has changed nothing leaves the state as it is. -/
theorem apply_start_chan {s : State} {i : Nat} (hi : i < s.nch) :
    s.apply i (ChanStep.start (s.chan i)) = s := by
  simp [State.apply, putChan_chan hi, State.emit]

/-- Babble as one update: discarded while a halt is pending, else a halt is requested (R173, R196). -/
theorem overflow_eq (i : Nat) (c : Channel) :
    overflow i c =
      { ch := if c.haltPending = true then c else { c with state := .BBLERR, haltPending := true }
        out := if c.haltPending = true then [] else [.HALT_REQ i] } := by
  unfold overflow
  split <;> rfl

section Babble

variable {c : ChanIx} {s : State} {n : BitVec 19}

/-- EV_PKT of a packet that passes the requested length (R196). -/
theorem exec_evPkt_overflow (more : Bool) (hc : c.toNat < s.nch) (hv : s.variant = .OTG false)
    (hdir : (s.chan c.toNat).dir = .IN) (harmed : (s.chan c.toNat).armed = true)
    (hlen : (s.chan c.toNat).xferLen.toNat < (s.chan c.toNat).xferCount.toNat + n.toNat) :
    exec (.evPkt c n more) s =
      .next (s.apply c.toNat (overflow c.toNat (s.chan c.toNat))) := by
  have hexpected : ¬ (isFs s.variant = true ∨ dmaOn s.variant = true
      ∨ (s.chan c.toNat).dir = .OUT ∨ (s.chan c.toNat).armed = false) := by
    simp [hv, hdir, harmed, isFs, dmaOn]
  rw [exec, execEvPkt, if_neg (Nat.not_le_of_lt hc), if_neg hexpected, if_pos hlen]

/-- EV_DBUF_ACK of a packet that passes the remaining length or the slot; under a pending halt the event is discarded before its length is looked at (R222). -/
theorem exec_evDbufAck_overflow (b : Bool) (hc : c.toNat < s.nch) (hv : s.variant = .FS)
    (hdbuf : (s.chan c.toNat).dbufEn = true) (harmed : (s.chan c.toNat).armed = true)
    (hlen : remaining (s.chan c.toNat) < n.toNat ∨ (s.chan c.toNat).mps.toNat < n.toNat) :
    exec (.evDbufAck c b n) s =
      .next (s.apply c.toNat (overflow c.toNat (s.chan c.toNat))) := by
  have hexpected : ¬ (isFs s.variant = false ∨ (s.chan c.toNat).dbufEn = false
      ∨ (s.chan c.toNat).armed = false) := by
    simp [hv, hdbuf, harmed, isFs]
  rw [exec, execEvDbufAck, if_neg (Nat.not_le_of_lt hc), if_neg hexpected]
  by_cases hp : (s.chan c.toNat).haltPending = true
  · rw [if_pos hp, overflow, if_pos hp, apply_start_chan hc]
  · rw [if_neg hp, if_pos hlen]

end Babble

/-- Settles O40: both events apply `overflow`. -/
theorem packetOverflowIsBabble : Obligations.PacketOverflowIsBabble := by
  intro c n i s c0 hc hc0 harmed hcase
  subst hc0
  have hexec : exec i s = .next (s.apply c.toNat (overflow c.toNat (s.chan c.toNat))) := by
    rcases hcase with ⟨hv, hdir, ⟨more, rfl⟩, hlen⟩ | ⟨hv, hdbuf, ⟨b, rfl⟩, hlen⟩
    · exact exec_evPkt_overflow more hc hv hdir harmed hlen
    · exact exec_evDbufAck_overflow b hc hv hdbuf harmed hlen
  rw [overflow_eq] at hexec
  exact exists_framed_of_apply hc hexec fun _ hchan hout => ⟨hchan, hout⟩

end Sys2Proof.Proofs
end

section
/-! SUPPORT. The handlers of the classifying events, each as one update of the record (R151 to R177, R203). -/

namespace Sys2Proof.Proofs

open Sys2Proof.Machine Sys2Proof.Laws

/-- The record at XFRC before its completion by endpoint type: progress, the count, the toggle, no split phase left (R160). -/
def xfrcRecord (v : Variant) (c : Channel) : Channel :=
  { toggleAtXfrc (countAtXfrc v (dropFlag .NAK (dropFlag .ACK (clearRetries c)))) with
    ssplit := false, csplit := false, state := .XFRC }

/-- The record at NAK before any halt: control and bulk clear `err_cnt` (R167). -/
def nakRecord (c : Channel) : Channel :=
  { c with errCnt := if c.epType = .CTRL ∨ c.epType = .BULK then 0 else c.errCnt }

/-- The events that classify an error, with the state each records (R170, R172 to R175, R177). -/
def errorEvents : List (ChanEvent × ProtoState) :=
  [(.STALL, .STALL), (.XACTERR, .XACTERR), (.BBLERR, .BBLERR), (.DTERR, .DATATGLERR),
    (.FRMOR, .XACTERR), (.NYET, .NYET)]

section Handlers

variable {v : Variant} {i : Nat} {c : Channel}

theorem isCtrlBulk_iff (et : EpType) : isCtrlBulk et = true ↔ et = .CTRL ∨ et = .BULK := by
  cases et <;> simp [isCtrlBulk]

/-- Every endpoint type is re-armed by the sequencer or periodic (R18). -/
theorem not_ctrlBulk_iff (et : EpType) : ¬ (et = .CTRL ∨ et = .BULK) ↔ et = .INTR ∨ et = .ISOC := by
  cases et <;> simp

/-- `xfrcRecord` field by field (R157, R160, R161). -/
theorem xfrcRecord_eq :
    xfrcRecord v c =
      { c with
        errCnt := 0, nyetCnt := 0
        hcint := clearFlag (clearFlag c.hcint .ACK) .NAK
        xferCount := (countAtXfrc v c).xferCount
        toggleIn :=
          if c.dir = .IN ∧ c.epType ≠ .ISOC ∧ c.setup = false then
            (c.tgl0 ^^ decide (npk (countAtXfrc v c).xferCount.toNat c.mps.toNat % 2 = 1))
          else c.toggleIn
        toggleOut :=
          if c.dir = .OUT ∧ c.epType ≠ .ISOC ∧ c.setup = false then
            (c.tgl0 ^^ decide (npk (countAtXfrc v c).xferCount.toNat c.mps.toNat % 2 = 1))
          else c.toggleOut
        ssplit := false, csplit := false, state := .XFRC } := by
  simp only [xfrcRecord, toggleAtXfrc_eq, countAtXfrc_eq]
  rfl

/-- Control and bulk channels request a halt at XFRC (R160). -/
theorem xfrc_ctrlBulk (h : c.epType = .CTRL ∨ c.epType = .BULK) :
    xfrc v i c = { ch := { xfrcRecord v c with haltPending := true }, out := [.HALT_REQ i] } := by
  have het : isCtrlBulk (xfrcRecord v c).epType = true := by
    rw [xfrcRecord_eq]
    exact (isCtrlBulk_iff _).2 h
  exact if_pos het

/-- Periodic channels complete at XFRC (R160). -/
theorem xfrc_periodic (h : c.epType = .INTR ∨ c.epType = .ISOC) :
    xfrc v i c =
      { ch := { xfrcRecord v c with oddfrm := !c.oddfrm, armed := false, urb := .DONE }
        out := [.ODDFRM i (!c.oddfrm), .URB i .DONE] } := by
  have het : ¬ isCtrlBulk (xfrcRecord v c).epType = true := by
    rw [xfrcRecord_eq, isCtrlBulk_iff]
    exact (not_ctrlBulk_iff _).2 h
  have hodd : (xfrcRecord v c).oddfrm = c.oddfrm := by rw [xfrcRecord_eq]
  rw [← hodd]
  exact if_neg het

/-- A NAK to a complete-split as one update (R203). -/
theorem splitNak_eq :
    splitNak c =
      { c with ssplit := if c.csplit = true then true else c.ssplit, csplit := false } := by
  unfold splitNak
  cases h : c.csplit with
  | true => rfl
  | false =>
    simp only [Bool.false_eq_true, if_false]
    rw [← h]

/-- A NAK that halts as one update (R167, R203). -/
theorem nakHalt_eq :
    nakHalt i c =
      { ch := { c with
          state := .NAK, haltPending := true
          ssplit := if c.csplit = true then true else c.ssplit, csplit := false }
        out := [.HALT_REQ i] } := by
  rw [nakHalt, splitNak_eq]
  rfl

theorem nakRecord_ctrlBulk (h : c.epType = .CTRL ∨ c.epType = .BULK) :
    nakRecord c = { c with errCnt := 0 } := by
  simp only [nakRecord, if_pos h]

theorem nakRecord_periodic (h : c.epType = .INTR ∨ c.epType = .ISOC) : nakRecord c = c := by
  simp only [nakRecord, if_neg ((not_ctrlBulk_iff _).2 h)]

/-- NAK by endpoint type (R167). -/
theorem nak_eq :
    nak v i c =
      if c.epType = .INTR ∨ ((c.epType = .CTRL ∨ c.epType = .BULK)
          ∧ (v ≠ .OTG true ∨ c.csplit = true)) then nakHalt i (nakRecord c)
      else ChanStep.start (nakRecord c) := by
  have hdma : dmaOn v = false ↔ v ≠ .OTG true := by rw [← Bool.not_eq_true, dmaOn_iff]
  cases h : c.epType with
  | CTRL => simp [nak, h, hdma, nakRecord_ctrlBulk (.inl h)]
  | ISOC => simp [nak, h, nakRecord_periodic (.inr h)]
  | BULK => simp [nak, h, hdma, nakRecord_ctrlBulk (.inr h)]
  | INTR => simp [nak, h, nakRecord_periodic (.inl h)]

/-! ## A classifying event on an armed channel with no halt pending -/

/-- What R152 and R153 ask before a classifying event is handled. -/
structure Live (c : Channel) : Prop where
  armed : c.armed = true
  unhalted : c.haltPending = false

theorem live_iff : Live c ↔ c.armed = true ∧ c.haltPending = false :=
  ⟨fun ⟨ha, hp⟩ => ⟨ha, hp⟩, fun ⟨ha, hp⟩ => ⟨ha, hp⟩⟩

theorem not_live_iff : ¬ Live c ↔ c.armed = false ∨ c.haltPending = true := by
  rw [live_iff, not_and_or, Bool.not_eq_true, Bool.not_eq_false]

theorem Live.not_discarded (h : Live c) : ¬ (c.armed = false ∨ c.haltPending = true) :=
  fun hd => not_live_iff.2 hd h

theorem Live.handle_xfrc (h : Live c) : handle v i .XFRC c = xfrc v i c := if_neg h.not_discarded

theorem Live.handle_ack (h : Live c) : handle v i .ACK c = Machine.ack i c := if_neg h.not_discarded

theorem Live.handle_nak (h : Live c) : handle v i .NAK c = nak v i c := if_neg h.not_discarded

/-- The six errors classify and request a halt (R170 to R177). -/
theorem Live.handle_error (h : Live c) {k : ChanEvent} {st : ProtoState}
    (hk : (k, st) ∈ errorEvents) : handle v i k c = classify i st (ChanStep.start c) := by
  simp only [errorEvents, List.mem_cons, Prod.mk.injEq, List.not_mem_nil, or_false] at hk
  rcases hk with ⟨rfl, rfl⟩ | ⟨rfl, rfl⟩ | ⟨rfl, rfl⟩ | ⟨rfl, rfl⟩ | ⟨rfl, rfl⟩ | ⟨rfl, rfl⟩ <;>
    exact if_neg h.not_discarded

end Handlers

end Sys2Proof.Proofs
end

section
/-! SUPPORT. The flags one DISPATCH clears (R160, R240, R241). -/

namespace Sys2Proof.Proofs

open Sys2Proof.Machine Sys2Proof.Laws

/-- Writing a flag to 0 writes its bit and no other (R38). -/
theorem getLsbD_clearFlag (v : BitVec 10) (k : ChanEvent) {b : Nat} (hb : b < 10) :
    (clearFlag v k).getLsbD b = if b = eventBit k then false else v.getLsbD b := by
  have hk := eventBit_lt k
  by_cases h : b = eventBit k <;> simp [clearFlag, eventMask, hb, h, hk]

section Handlers

variable {v : Variant} {i : Nat} {c : Channel}

theorem rearmCtrlBulk_hcint (a : ChanStep) : (rearmCtrlBulk i a).ch.hcint = a.ch.hcint := by
  rcases rearmCtrlBulk_cases i a with ⟨-, h⟩ | ⟨-, h⟩
  · rw [h, rearm_ch]
  · rw [h]

/-- XFRC also clears the ACK and NAK flags (R160). -/
theorem xfrc_hcint : (xfrc v i c).ch.hcint = clearFlag (clearFlag c.hcint .ACK) .NAK := by
  by_cases h : c.epType = .CTRL ∨ c.epType = .BULK
  · rw [xfrc_ctrlBulk h, xfrcRecord_eq]
  · rw [xfrc_periodic ((not_ctrlBulk_iff _).1 h), xfrcRecord_eq]

theorem ack_hcint : (Machine.ack i c).ch.hcint = c.hcint := by
  unfold Machine.ack
  split <;> rfl

theorem nak_hcint : (nak v i c).ch.hcint = c.hcint := by
  rw [nak_eq]
  split
  · rw [nakHalt_eq]
    rfl
  · rfl

theorem chhError_hcint (a : ChanStep) : (chhError i a).ch.hcint = a.ch.hcint := by
  unfold chhError
  dsimp only
  split
  · rfl
  · exact rearmCtrlBulk_hcint _

theorem chhNyet_hcint (a : ChanStep) : (chhNyet i a).ch.hcint = a.ch.hcint := by
  unfold chhNyet
  split
  · unfold chhNyetIntr
    dsimp only
    split <;> rfl
  · rfl
  · rfl
  · rfl

/-- No rule of the halt confirmation writes a flag (R180 to R187). -/
theorem chhFrom_hcint (st : ProtoState) (a : ChanStep) :
    (chhFrom st i a).ch.hcint = a.ch.hcint := by
  cases st with
  | XFRC => rfl
  | NAK => exact rearmCtrlBulk_hcint _
  | STALL => rfl
  | XACTERR => exact chhError_hcint a
  | BBLERR => rfl
  | DATATGLERR => exact chhError_hcint a
  | ACK => exact rearmCtrlBulk_hcint _
  | NYET => exact chhNyet_hcint a
  | IDLE => rfl
  | HALTED => rfl

theorem chh_hcint : (chh i c).ch.hcint = c.hcint := by
  unfold chh
  split
  · rfl
  · exact chhFrom_hcint c.state _

/-- Only the handling of an XFRC writes a flag (R160). -/
theorem handle_hcint {k : ChanEvent} (hk : ¬ (k = .XFRC ∧ Live c)) :
    (handle v i k c).ch.hcint = c.hcint := by
  by_cases hchh : k = .CHH
  · exact hchh ▸ chh_hcint
  by_cases hlive : Live c
  · have herror : ∀ st, (k, st) ∈ errorEvents → (handle v i k c).ch.hcint = c.hcint :=
      fun st hst => by rw [hlive.handle_error hst, classify_ch, start_ch]
    cases k with
    | XFRC => exact absurd ⟨rfl, hlive⟩ hk
    | CHH => exact absurd rfl hchh
    | ACK => exact hlive.handle_ack ▸ ack_hcint
    | NAK => exact hlive.handle_nak ▸ nak_hcint
    | STALL => exact herror .STALL (by decide)
    | XACTERR => exact herror .XACTERR (by decide)
    | BBLERR => exact herror .BBLERR (by decide)
    | DTERR => exact herror .DATATGLERR (by decide)
    | FRMOR => exact herror .XACTERR (by decide)
    | NYET => exact herror .NYET (by decide)
  · rw [handle_discarded hchh (not_live_iff.1 hlive)]
    rfl

end Handlers

/-- Settles O49: the flag of R241 is dropped, then the handler clears ACK and NAK at an XFRC and no flag else. -/
theorem dispatchTakesOneFlagPerChannel : Obligations.DispatchTakesOneFlagPerChannel := by
  intro s t i k hm hi hk ht b hb
  have hchan : t.chan i = (handle s.variant i k (dropFlag k (s.chan i))).ch := by
    rw [execDispatch_chan hi t ht, if_pos hm, dispatchChan_flag (firstFlag_of_next hk)]
  have hdrop : (dropFlag k (s.chan i)).hcint.getLsbD b =
      if b = eventBit k then false else (s.chan i).hcint.getLsbD b := getLsbD_clearFlag _ k hb
  rw [hchan]
  by_cases hx : k = .XFRC ∧ Live (dropFlag k (s.chan i))
  · obtain ⟨rfl, hlive⟩ := hx
    rw [hlive.handle_xfrc, xfrc_hcint, getLsbD_clearFlag _ _ hb, getLsbD_clearFlag _ _ hb, hdrop]
    have ha : (s.chan i).armed = true := hlive.armed
    have hp : (s.chan i).haltPending = false := hlive.unhalted
    grind
  · rw [handle_hcint hx, hdrop]
    have hclear : ¬ (k = .XFRC ∧ (s.chan i).armed = true ∧ (s.chan i).haltPending = false
        ∧ (b = eventBit .ACK ∨ b = eventBit .NAK)) :=
      fun ⟨hk, ha, hp, _⟩ => hx ⟨hk, ha, hp⟩
    rw [if_neg hclear]

end Sys2Proof.Proofs
end

section
/-! SUPPORT. The classifying events on the one channel a DISPATCH finds pending (R152, R153, R160 to R177, R201 to R204). -/

namespace Sys2Proof.Proofs

open Sys2Proof.Machine Sys2Proof.Laws

section Alone

variable {s : State} {i : Nat} {k : ChanEvent} {c0 : Channel}

/-- A DISPATCH that finds channel i alone pending applies the handler of its flag (R240). -/
theorem dispatch_handled {a : ChanStep} {P : State → Prop} (h : AloneInDispatch s i)
    (hc0 : c0 = s.chan i) (hk : NextFlag c0 k)
    (ha : handle s.variant i k (dropFlag k c0) = a)
    (hP : ∀ t, t.chan i = a.ch → t.out = s.out ++ a.out → P t) :
    ∃ t, exec .dispatch s = .next t ∧ ChannelFrame i s t ∧ SameMemory s t ∧ t.resp = s.resp
      ∧ P t := by
  subst hc0 ha
  have ⟨_, hi, _⟩ := h
  exact exists_framed_of_apply hi (dispatch_alone h hk) hP

end Alone

/-- Settles O50: the flag is dropped and the handler does nothing. -/
theorem staleClassificationsAreDiscarded : Obligations.StaleClassificationsAreDiscarded := by
  intro s i k h hk hchh hstale
  refine dispatch_handled h rfl hk (handle_discarded hchh hstale) fun t hchan hout => ?_
  exact ⟨hout.trans (List.append_nil _), hchan⟩

/-- Settles O51: each of the six is one `classify`. -/
theorem errorsClassifyAndRequestAHalt : Obligations.ErrorsClassifyAndRequestAHalt := by
  intro s i k st h hk hst ha hp
  have hlive : Live (dropFlag k (s.chan i)) := ⟨ha, hp⟩
  exact dispatch_handled h rfl hk (hlive.handle_error hst) fun _ hchan hout => ⟨hchan, hout⟩

/-- A residual count within the transfer is subtracted without wrapping (R161). -/
theorem sub_eq_ofNat {len resid : BitVec 19} (h : resid.toNat ≤ len.toNat) :
    len - resid = BitVec.ofNat 19 (len.toNat - resid.toNat) := by
  rw [← BitVec.toNat_sub_of_le h, BitVec.ofNat_toNat, BitVec.setWidth_eq]

/-- Settles O52: the record of `xfrcRecord_eq`, completed by endpoint type. -/
theorem xfrcCompletesTheTransfer : Obligations.XfrcCompletesTheTransfer := by
  intro s i c0 c1 count tg h hc0 hk ha hp hmps hresid hcount htg hc1
  have hlive : Live (dropFlag .XFRC c0) := ⟨ha, hp⟩
  have hcount' : (countAtXfrc s.variant (dropFlag .XFRC c0)).xferCount = count := by
    rw [countAtXfrc_eq, hcount, ← sub_eq_ofNat hresid]
    simp only [dmaOn_iff]
    rfl
  have hmps' : (dropFlag .XFRC c0).mps.toNat ≠ 0 := fun h0 => hmps (BitVec.eq_of_toNat_eq h0)
  have hrecord : xfrcRecord s.variant (dropFlag .XFRC c0) = c1 := by
    rw [xfrcRecord_eq, hcount', npk_eq _ hmps', hc1, htg]
    rfl
  refine dispatch_handled h hc0 hk hlive.handle_xfrc fun t hchan hout =>
    ⟨fun het => ?_, fun het => ?_⟩
  · rw [xfrc_ctrlBulk (c := dropFlag .XFRC c0) het] at hchan hout
    exact ⟨hrecord ▸ hchan, hout⟩
  · rw [xfrc_periodic (c := dropFlag .XFRC c0) het] at hchan hout
    exact ⟨hrecord ▸ hchan, hout⟩

/-- Settles O53: the two branches of `ack`. -/
theorem ackAdvancesASplitOrClearsRetries : Obligations.AckAdvancesASplitOrClearsRetries := by
  intro s i c0 c1 h hc0 hk ha hp hc1
  have hlive : Live (dropFlag .ACK c0) := ⟨ha, hp⟩
  subst hc1
  by_cases hsplit : c0.doSplit = true ∧ c0.ssplit = true ∧ ¬ (c0.epType = .ISOC ∧ c0.dir = .OUT)
  · refine dispatch_handled h hc0 hk (hlive.handle_ack.trans (if_pos hsplit)) fun t hchan hout => ?_
    rw [if_pos hsplit]
    exact ⟨hchan, hout⟩
  · refine dispatch_handled h hc0 hk (hlive.handle_ack.trans (if_neg hsplit)) fun t hchan hout => ?_
    rw [if_neg hsplit]
    exact ⟨hchan, hout.trans (List.append_nil _)⟩

/-- Settles O54: the two branches of `nak_eq`. -/
theorem nakHaltsOrIsLeftToHardware : Obligations.NakHaltsOrIsLeftToHardware := by
  intro s i c0 c1 h hc0 hk ha hp hc1
  have hlive : Live (dropFlag .NAK c0) := ⟨ha, hp⟩
  have hhandle := (hlive.handle_nak (v := s.variant) (i := i)).trans nak_eq
  subst hc1
  by_cases hhalt : c0.epType = .INTR ∨ ((c0.epType = .CTRL ∨ c0.epType = .BULK)
      ∧ (s.variant ≠ .OTG true ∨ c0.csplit = true))
  · have hnak := (hhandle.trans (if_pos hhalt)).trans nakHalt_eq
    refine dispatch_handled h hc0 hk hnak fun t hchan hout => ?_
    rw [if_pos hhalt]
    exact ⟨hchan, hout⟩
  · refine dispatch_handled h hc0 hk (hhandle.trans (if_neg hhalt)) fun t hchan hout => ?_
    rw [if_neg hhalt]
    exact ⟨hchan, hout.trans (List.append_nil _)⟩

end Sys2Proof.Proofs
end

section
/-! SUPPORT. The halt confirmation (R180 to R187): what a CHH reports, counts and re-arms, by the state that requested the halt. -/

namespace Sys2Proof.Proofs

open Sys2Proof.Machine Sys2Proof.Laws

/-! ## The rules of R182 to R187, each by its cases -/

section Rules

variable {i : Nat} {a : ChanStep}

theorem rearmCtrlBulk_pos (h : a.ch.epType = .CTRL ∨ a.ch.epType = .BULK) :
    rearmCtrlBulk i a = rearm i a := if_pos ((isCtrlBulk_iff _).2 h)

theorem rearmCtrlBulk_neg (h : ¬ (a.ch.epType = .CTRL ∨ a.ch.epType = .BULK)) :
    rearmCtrlBulk i a = a := if_neg (mt (isCtrlBulk_iff _).1 h)

/-- The third error is terminal (R8, R183). -/
theorem chhError_third (h : 2 ≤ a.ch.errCnt.toNat) :
    chhError i a =
      retire (report i .ERROR ((a.upd fun c => { c with errCnt := satInc c.errCnt }).upd
        fun c => { c with errCnt := 0 })) := if_pos ((satInc_limit a.ch.errCnt).1.2 h)

/-- The first and the second are counted and retried (R8, R183). -/
theorem chhError_retry (h : ¬ 2 ≤ a.ch.errCnt.toNat) :
    chhError i a =
      rearmCtrlBulk i
        (report i .NOTREADY (a.upd fun c => { c with errCnt := a.ch.errCnt + 1 })) := by
  obtain ⟨hlimit, hcount⟩ := satInc_limit a.ch.errCnt
  rw [← hcount (Nat.lt_of_not_le h)]
  exact if_neg (mt hlimit.1 h)

/-- The third NYET of an interrupt channel asks for a reschedule (R8, R187, R205). -/
theorem chhNyetIntr_third (h : 2 ≤ a.ch.nyetCnt.toNat) :
    chhNyetIntr i a =
      report i .ERROR ((a.upd fun c => { c with nyetCnt := satInc c.nyetCnt }).upd
        fun c => { c with nyetCnt := 0, csplit := false, ssplit := false, resched := true }) :=
  if_pos ((satInc_limit a.ch.nyetCnt).1.2 h)

/-- The first and the second are counted (R8, R187). -/
theorem chhNyetIntr_retry (h : ¬ 2 ≤ a.ch.nyetCnt.toNat) :
    chhNyetIntr i a =
      report i .NOTREADY (a.upd fun c => { c with nyetCnt := a.ch.nyetCnt + 1 }) := by
  obtain ⟨hlimit, hcount⟩ := satInc_limit a.ch.nyetCnt
  rw [← hcount (Nat.lt_of_not_le h)]
  exact if_neg (mt hlimit.1 h)

theorem chhNyet_intr (h : a.ch.epType = .INTR) : chhNyet i a = chhNyetIntr i a := by
  simp only [chhNyet, h]

theorem chhNyet_isoc (h : a.ch.epType = .ISOC) : chhNyet i a = report i .NOTREADY a := by
  simp only [chhNyet, h]

/-- Control and bulk re-issue the complete-split without a bound (R187). -/
theorem chhNyet_ctrlBulk (h : a.ch.epType = .CTRL ∨ a.ch.epType = .BULK) :
    chhNyet i a = rearm i (report i .NOTREADY a) := by
  rcases h with h | h <;> simp only [chhNyet, h]

end Rules

/-! ## The channel a CHH leaves -/

section Alone

variable {s t : State} {i : Nat} {c0 c1 : Channel}

/-- A CHH on an armed channel: the flag is dropped, the channel is halted, and the rule of its state runs (R180, R240). -/
theorem dispatch_chh {a : ChanStep} {P : State → Prop} (h : AloneInDispatch s i)
    (hc0 : c0 = s.chan i) (hk : NextFlag c0 .CHH) (harmed : c0.armed = true)
    (hc1 : c1 = { c0 with
      hcint := clearFlag c0.hcint .CHH, armed := false, haltPending := false, state := .HALTED })
    (ha : chhFrom c0.state i (ChanStep.start c1) = a)
    (hP : ∀ t, t.chan i = a.ch → t.out = s.out ++ a.out → P t) :
    ∃ t, exec .dispatch s = .next t ∧ ChannelFrame i s t ∧ SameMemory s t ∧ t.resp = s.resp
      ∧ P t := by
  subst hc1
  exact dispatch_handled h hc0 hk ((handle_chh_armed _ i harmed).trans ha) hP

/-- The re-arm of control and bulk channels, told of the next state: the transfer goes on where the record says, periodic channels stay halted (R19, R155). -/
theorem rearmCtrlBulk_applied {a : ChanStep} (hchan : t.chan i = (rearmCtrlBulk i a).ch)
    (hout : t.out = s.out ++ (rearmCtrlBulk i a).out) :
    if a.ch.epType = .CTRL ∨ a.ch.epType = .BULK then
      t.chan i = { a.ch with armed := true, state := .IDLE }
        ∧ t.out = s.out ++ (a.out ++ [armOf i a.ch])
    else t.chan i = a.ch ∧ t.out = s.out ++ a.out := by
  split
  · next het =>
    rw [rearmCtrlBulk_pos het, rearm_ch] at hchan
    rw [rearmCtrlBulk_pos het, rearm_out, armRecord_eq] at hout
    exact ⟨hchan, hout⟩
  · next het =>
    rw [rearmCtrlBulk_neg het] at hchan hout
    exact ⟨hchan, hout⟩

end Alone

/-! ## The statements -/

/-- Settles O55: a quiesced channel keeps its two bits at 0, an unclassified one has them cleared. -/
theorem unclassifiedChhIsSilent : Obligations.UnclassifiedChhIsSilent := by
  intro s i h hk hcase
  rcases hcase with ⟨ha, hp⟩ | ⟨ha, hst⟩
  · have hquiet : handle s.variant i .CHH (dropFlag .CHH (s.chan i)) =
        ChanStep.start { dropFlag .CHH (s.chan i) with state := .HALTED } := if_pos ⟨ha, hp⟩
    refine dispatch_handled h rfl hk hquiet fun t hchan hout => ⟨hout.trans (List.append_nil _), ?_⟩
    rw [hchan]
    simp only [start_ch, dropFlag, ha, hp]
  · have hidle : chhFrom (s.chan i).state i = id := by
      rw [hst]
      rfl
    exact dispatch_chh h rfl hk ha rfl (congrFun hidle _) fun t hchan hout =>
      ⟨hout.trans (List.append_nil _), hchan⟩

/-- Settles O56: one rule for each of the three states. -/
theorem chhReportsDoneStallOrBabble : Obligations.ChhReportsDoneStallOrBabble := by
  intro s i c0 c1 h hc0 hk ha hc1 _
  refine dispatch_chh h hc0 hk ha hc1 rfl fun t hchan hout => ?_
  refine ⟨fun hst => ?_, fun hst => ?_, fun hst => ?_⟩ <;> rw [hst] at hchan hout
  · exact ⟨hchan, hout⟩
  · exact ⟨hchan, hout⟩
  · subst hc1
    exact ⟨hchan, hout⟩

/-- Settles O57: `chhError` by the count before it. -/
theorem thirdErrorIsTerminal : Obligations.ThirdErrorIsTerminal := by
  intro s i c0 c1 h hc0 hk ha hst hc1
  have hrule : chhFrom c0.state i = chhError i := by
    rcases hst with hst | hst <;> rw [hst] <;> rfl
  refine dispatch_chh h hc0 hk ha hc1 (congrFun hrule _) fun t hchan hout => ?_
  subst hc1
  split
  · next hcount =>
    rw [chhError_third hcount] at hchan hout
    exact ⟨hchan, hout⟩
  · next hcount =>
    rw [chhError_retry hcount] at hchan hout
    exact rearmCtrlBulk_applied hchan hout

/-- Settles O58: the report, then the re-arm. -/
theorem chhAfterNakRetries : Obligations.ChhAfterNakRetries := by
  intro s i c0 c1 h hc0 hk ha hst hc1
  have hrule : chhFrom c0.state i = chhNak i := by
    rw [hst]
    rfl
  refine dispatch_chh h hc0 hk ha rfl (congrFun hrule _) fun t hchan hout => ?_
  subst hc1
  exact rearmCtrlBulk_applied hchan hout

/-- Settles O59: the report, the complete-split, then the re-arm. -/
theorem chhAfterSplitAckProgramsTheCompleteSplit :
    Obligations.ChhAfterSplitAckProgramsTheCompleteSplit := by
  intro s i c0 c1 h hc0 hk ha hst hc1
  have hrule : chhFrom c0.state i = chhAck i := by
    rw [hst]
    rfl
  refine dispatch_chh h hc0 hk ha rfl (congrFun hrule _) fun t hchan hout => ?_
  subst hc1
  exact rearmCtrlBulk_applied hchan hout

/-- Settles O60: `chhNyet` by endpoint type, and on interrupt channels by the count before it. -/
theorem thirdNyetAsksForAReschedule : Obligations.ThirdNyetAsksForAReschedule := by
  intro s i c0 c1 h hc0 hk ha hst hc1
  have hrule : chhFrom c0.state i = chhNyet i := by
    rw [hst]
    rfl
  refine dispatch_chh h hc0 hk ha hc1 (congrFun hrule _) fun t hchan hout => ?_
  subst hc1
  split
  · next hintr =>
    rw [chhNyet_intr hintr] at hchan hout
    split
    · next hcount =>
      rw [chhNyetIntr_third hcount] at hchan hout
      exact ⟨hchan, hout⟩
    · next hcount =>
      rw [chhNyetIntr_retry hcount] at hchan hout
      exact ⟨hchan, hout⟩
  · next hintr =>
    split
    · next hisoc =>
      rw [chhNyet_isoc hisoc] at hchan hout
      exact ⟨hchan, hout⟩
    · next hisoc =>
      have het : c0.epType = .CTRL ∨ c0.epType = .BULK := by
        by_contra hper
        exact ((not_ctrlBulk_iff _).1 hper).elim hintr hisoc
      rw [chhNyet_ctrlBulk het, rearm_ch] at hchan
      rw [chhNyet_ctrlBulk het, rearm_out, armRecord_eq] at hout
      exact ⟨hchan, hout⟩

end Sys2Proof.Proofs
end

section
/-! SUPPORT. A split transfer aborted by HALT (R131, R209): what HALT leaves of it is kept by everything but a SUBMIT of its channel, so that SUBMIT starts with a start-split (R123). -/

namespace Sys2Proof.Proofs

open Sys2Proof.Machine Sys2Proof.Laws

/-! ## A cancelled channel -/

/-- A channel as HALT leaves it: neither armed nor waiting for a halt confirmation, and in no complete-split phase (R131). -/
structure Cancelled (r : Channel) : Prop where
  unarmed : r.armed = false
  settled : r.haltPending = false
  notComplete : r.csplit = false

/-- Channel `j` is cancelled. -/
abbrev CancelledAt (j : Nat) (s : State) : Prop := Cancelled (s.chan j)

/-- A pass of the demultiplexer discards the events of the aborted transfer, and its late CHH finds the channel quiesced (R152, R181). -/
theorem Cancelled.dispatchChan {r : Channel} (h : Cancelled r) (v : Variant) (i : Nat) :
    Cancelled (dispatchChan v i r).ch := by
  cases hflag : firstFlag r with
  | none =>
    rw [dispatchChan_idle hflag]
    exact h
  | some k =>
    rw [dispatchChan_flag hflag]
    by_cases hk : k = .CHH
    · have hquiet : handle v i k (dropFlag k r) =
          ChanStep.start { dropFlag k r with state := .HALTED } := by
        rw [hk]
        exact if_pos ⟨h.unarmed, h.settled⟩
      rw [hquiet]
      exact ⟨h.unarmed, h.settled, h.notComplete⟩
    · rw [handle_discarded (c := dropFlag k r) hk (.inl h.unarmed)]
      exact ⟨h.unarmed, h.settled, h.notComplete⟩

/-- A write of some channel's record keeps channel `j` cancelled where it keeps a cancelled record so. -/
theorem cancelled_putChan {s : State} {i j : Nat} {r : Channel} (h : CancelledAt j s)
    (hr : Cancelled (s.chan i) → Cancelled r) : CancelledAt j (s.putChan i r) := by
  unfold CancelledAt at *
  by_cases hj : j = i
  · subst hj
    by_cases hlt : j < s.nch
    · rw [chan_putChan_self r hlt]
      exact hr h
    · have hlen : s.ch.length ≤ j := Nat.le_of_not_lt hlt
      rwa [State.putChan, List.set_eq_of_length_le hlen]
  · rwa [chan_putChan_ne s r hj]

/-! ## The instructions -/

section Instructions

variable {s : State} {j : Nat}

/-- A word for another channel leaves the cancelled one alone (R73). -/
theorem exec_other_keeps_cancelled {i : Instr} {c : ChanIx} (h : CancelledAt j s)
    (hi : channelOf i = some c) (hj : j ≠ c.toNat) : Ends (CancelledAt j) (exec i s) := by
  intro t ht
  rwa [CancelledAt, instrEffect_others hi (exec_effect i s t ht) hj]

variable (c : ChanIx) (h : CancelledAt j s)
include h

theorem checked_keeps_cancelled {x : Result} (hx : Ends (CancelledAt j) x) :
    Ends (CancelledAt j) (checked c s x) :=
  .ite (.next h) <| .ite (.next h) <| .ite (.next h) hx

/-- CONFIG clears the split flags and writes neither `armed` nor `halt_pending` (R110). -/
theorem execConfig_keeps_cancelled (dir : Dir) (et : EpType) (sp : BitVec 2) (da : BitVec 7)
    (en : BitVec 4) (mps : BitVec 11) :
    Ends (CancelledAt j) (execConfig c dir et sp da en mps s) := by
  unfold execConfig
  refine .ite (.next h) <| .ite (.next h) ?_
  cases cfgSpeed s.variant sp mps with
  | none => exact .next h
  | some spd => exact .next (cancelled_putChan h fun hr => ⟨hr.unarmed, hr.settled, rfl⟩)

theorem execConfigDbuf_keeps_cancelled (en : Bool) (b0 b1 : BitVec 16) :
    Ends (CancelledAt j) (execConfigDbuf c en b0 b1 s) :=
  checked_keeps_cancelled c h <| .ite (.next h) <|
    .next (cancelled_putChan h fun hr => ⟨hr.unarmed, hr.settled, hr.notComplete⟩)

theorem execHalt_keeps_cancelled : Ends (CancelledAt j) (execHalt c s) :=
  .ite (.next h) <| .check (fun _ => .next h) fun hlive =>
    .next (cancelled_putChan h fun hr => absurd (.inl hr.unarmed) hlive)

/-- Both hub commands clear the split flags (R140, R141). -/
theorem routeHub_keeps_cancelled (ha hp : BitVec 7) (split : Bool) :
    Ends (CancelledAt j) (checked c s
      (respond .OK 0 (s.putChan c.toNat (routeHub ha hp split (s.chan c.toNat))))) :=
  checked_keeps_cancelled c h <|
    .next (cancelled_putChan h fun hr => ⟨hr.unarmed, hr.settled, rfl⟩)

/-- A late event of the aborted transfer only latches its flag (R150). -/
theorem latchEvent_keeps_cancelled (k : ChanEvent) (w : Word) :
    Ends (CancelledAt j) (latchEvent k c w s) :=
  .ite (.next h) <|
    .next (cancelled_putChan h fun hr => ⟨hr.unarmed, hr.settled, hr.notComplete⟩)

theorem execEvXfrc_keeps_cancelled (resid : BitVec 19) :
    Ends (CancelledAt j) (execEvXfrc c resid s) :=
  .ite (.next h) <| .ite (.next h) <| .ite (.next h) <|
    .next (cancelled_putChan h fun hr => ⟨hr.unarmed, hr.settled, hr.notComplete⟩)

/-- A late packet of the aborted transfer faults (R196). -/
theorem execEvPkt_keeps_cancelled (n : BitVec 19) (more : Bool) :
    Ends (CancelledAt j) (exec (.evPkt c n more) s) := by
  by_cases hj : j = c.toNat
  · subst hj
    exact .ite (.next h) <| .check (fun _ => .next h) fun hexpected =>
      absurd (.inr (.inr (.inr h.unarmed))) hexpected
  · exact exec_other_keeps_cancelled h rfl hj

/-- So does a late acknowledgement (R222). -/
theorem execEvDbufAck_keeps_cancelled (b : Bool) (n : BitVec 19) :
    Ends (CancelledAt j) (exec (.evDbufAck c b n) s) := by
  by_cases hj : j = c.toNat
  · subst hj
    exact .ite (.next h) <| .check (fun _ => .next h) fun hexpected =>
      absurd (.inr (.inr h.unarmed)) hexpected
  · exact exec_other_keeps_cancelled h rfl hj

theorem execEvPort_keeps_cancelled (pev : BitVec 3) (sp : BitVec 2) :
    Ends (CancelledAt j) (execEvPort pev sp s) := by
  unfold execEvPort
  split
  · next e spd _ _ =>
    obtain ⟨p, rs, hport⟩ := portEvent_effect s e spd
    rw [hport]
    exact .ite (.next h) (.next h)
  · exact .next h
  · exact .next h

theorem execDispatch_keeps_cancelled : Ends (CancelledAt j) (execDispatch s) := by
  cases hm : s.hostMode with
  | false =>
    rw [execDispatch_device hm]
    exact .next h
  | true =>
    rw [execDispatch_host hm]
    refine .next ?_
    simp only [CancelledAt, State.chan, List.getD_eq_getElem?_getD, demux_getElem?,
      Nat.zero_add] at h ⊢
    cases hr : s.ch[j]? with
    | none => simpa [hr] using h
    | some r =>
      rw [hr] at h
      exact Cancelled.dispatchChan h s.variant j

end Instructions

/-- Only a SUBMIT of its channel takes a channel out of the cancelled state. -/
theorem exec_keeps_cancelled {c : ChanIx} {s : State} (h : CancelledAt c.toNat s) (i : Instr)
    (hi : ∀ dir et su len buf, i ≠ .submit c dir et su len buf) :
    Ends (CancelledAt c.toNat) (exec i s) := by
  cases i with
  | config c' dir et sp da en mps => exact execConfig_keeps_cancelled c' h dir et sp da en mps
  | configDbuf c' en b0 b1 => exact execConfigDbuf_keeps_cancelled c' h en b0 b1
  | submit c' dir et su len buf =>
    refine exec_other_keeps_cancelled h rfl fun heq => hi dir et su len buf ?_
    rw [BitVec.eq_of_toNat_eq heq]
  | halt c' => exact execHalt_keeps_cancelled c' h
  | setHub c' ha hp => exact routeHub_keeps_cancelled c' h ha hp _
  | clearHub c' => exact routeHub_keeps_cancelled c' h 0 0 false
  | getUrb c' => exact .ite (.next h) (.next h)
  | getCount c' => exact .ite (.next h) (.next h)
  | evXfrc c' resid => exact execEvXfrc_keeps_cancelled c' h resid
  | evAck c' => exact latchEvent_keeps_cancelled c' h .ACK _
  | evNak c' => exact latchEvent_keeps_cancelled c' h .NAK _
  | evStall c' => exact latchEvent_keeps_cancelled c' h .STALL _
  | evXacterr c' => exact latchEvent_keeps_cancelled c' h .XACTERR _
  | evBblerr c' => exact latchEvent_keeps_cancelled c' h .BBLERR _
  | evDterr c' => exact latchEvent_keeps_cancelled c' h .DTERR _
  | evFrmor c' => exact latchEvent_keeps_cancelled c' h .FRMOR _
  | evNyet c' => exact latchEvent_keeps_cancelled c' h .NYET _
  | evChh c' => exact latchEvent_keeps_cancelled c' h .CHH _
  | evPkt c' n more => exact execEvPkt_keeps_cancelled c' h n more
  | evDbufAck c' b n => exact execEvDbufAck_keeps_cancelled c' h b n
  | evPort pev sp => exact execEvPort_keeps_cancelled h pev sp
  | dispatch => exact execDispatch_keeps_cancelled h

/-! ## The queue -/

/-- An item of the input queue that is no SUBMIT of channel `c`. -/
def NoSubmit (c : ChanIx) (x : Stimulus) : Prop :=
  ∀ w d, x = .word w d → ∀ dir et su len buf, decode w ≠ .ok (.submit c dir et su len buf)

theorem takeWord_keeps_cancelled {c : ChanIx} {s : State} {w : Word} (h : CancelledAt c.toNat s)
    (hw : ∀ dir et su len buf, decode w ≠ .ok (.submit c dir et su len buf)) (d : Draws) :
    Ends (CancelledAt c.toNat) (takeWord w d s) := by
  cases hf : s.fault.valid with
  | true =>
    rw [takeWord_faulted w d hf]
    exact .next h
  | false =>
    cases hd : decode w with
    | error e =>
      rw [takeWord_illegal d hf hd]
      exact .next h
    | ok i =>
      rw [takeWord_decoded d hf hd]
      exact exec_keeps_cancelled (s := beginWord d s) h i fun dir et su len buf hi =>
        hw dir et su len buf (hi ▸ hd)

/-- Whatever the item is, a word or an action of the environment, the channel stays cancelled. -/
theorem takeStimulus_keeps_cancelled {c : ChanIx} {s : State} {x : Stimulus}
    (h : CancelledAt c.toNat s) (hx : NoSubmit c x) :
    Ends (CancelledAt c.toNat) (takeStimulus x s) := by
  cases x with
  | word w d => exact takeWord_keeps_cancelled h (hx w d rfl) d
  | hostMode b => exact .next h
  | memWrite sp a bs =>
    simp only [takeStimulus]
    split
    · exact .fault _
    · next s1 hw => exact .next (by rwa [CancelledAt, chan_of_memWrite hw])
  | reset =>
    refine .next ?_
    rw [CancelledAt, hwReset_chan]
    exact ⟨rfl, rfl, rfl⟩

/-- A step takes one item from the queue and leaves the rest waiting (R15). -/
theorem step_inputs (s : State) : Ends (fun t => t.inputs = s.inputs.tail) (step s) := by
  intro t ht
  cases step_effect s t ht with
  | wait hin => simp [hin]
  | drop hin => simp [hin]
  | illegal hin => simp [hin]
  | run hin _ hexec => simp [hin, instrEffect_inputs (exec_effect _ _ t hexec)]
  | hostMode hin => simp [hin]
  | memWrite hin hw =>
    obtain ⟨-, rfl⟩ := memWrite_spec hw
    simp [hin]
  | reset hin => simp [hin]

/-- A run of several steps that stops nowhere begins with a step that does not. -/
theorem run_succ {n : Nat} {s t : State}
    (h : Host.Core.run Sys2Proof.core (n + 1) s = .next t) :
    ∃ s', step s = .next s' ∧ Host.Core.run Sys2Proof.core n s' = .next t := by
  simp only [Host.Core.run] at h
  split at h
  · next s' hstep => exact ⟨s', hstep, h⟩
  · cases h
  · cases h

/-- However many items follow, a run that takes them, no SUBMIT of the channel among them, leaves it cancelled and what stands behind them waiting. -/
theorem run_keeps_cancelled {c : ChanIx} {items later : List Stimulus} {s t : State}
    (h : CancelledAt c.toNat s) (hin : s.inputs = items ++ later)
    (hno : ∀ x ∈ items, NoSubmit c x)
    (hrun : Host.Core.run Sys2Proof.core items.length s = .next t) :
    CancelledAt c.toNat t ∧ t.inputs = later := by
  induction items generalizing s with
  | nil =>
    cases hrun
    exact ⟨h, hin⟩
  | cons x items ih =>
    obtain ⟨s', hstep, hrun'⟩ := run_succ hrun
    have hin' : s'.inputs = items ++ later := by
      rw [step_inputs s s' hstep, hin, List.cons_append, List.tail_cons]
    rw [step_cons hin] at hstep
    have h' : CancelledAt c.toNat s' := takeStimulus_keeps_cancelled
      (s := { s with inputs := items ++ later }) h (hno x List.mem_cons_self) s' hstep
    exact ih h' hin' (fun y hy => hno y (List.mem_cons_of_mem x hy)) hrun'

/-! ## HALT and the next SUBMIT -/

/-- HALT cancels a transfer that runs with no halt pending (R131). -/
theorem exec_halt_cancels {c : ChanIx} {s : State} (hc : c.toNat < s.nch)
    (harmed : (s.chan c.toNat).armed = true) (hpend : (s.chan c.toNat).haltPending = false) :
    Ends (fun t => CancelledAt c.toNat t ∧ (t.chan c.toNat).ssplit = false)
      (exec (.halt c) s) := by
  rw [exec_halt_live hc harmed hpend]
  refine .next ?_
  have hchan := chan_apply_self (haltNow c.toNat (s.chan c.toNat)) hc
  exact ⟨⟨congrArg Channel.armed hchan, (congrArg Channel.haltPending hchan).trans hpend,
    congrArg Channel.csplit hchan⟩, congrArg Channel.ssplit hchan⟩

/-- So does the step that takes its word (R15). -/
theorem step_halt_cancels {c : ChanIx} {s : State} {d : Draws} {rest : List Stimulus}
    (hc : c.toNat < s.nch) (harmed : (s.chan c.toNat).armed = true)
    (hpend : (s.chan c.toNat).haltPending = false)
    (hin : s.inputs = .word (encode (.halt c)) d :: rest) (hf : s.fault.valid = false) :
    Ends (CancelledAt c.toNat) (step s) := by
  rw [stepRunsTheDecodedInstruction s _ d rest _ hin hf (decodeInvertsEncode (.halt c) rfl)]
  intro t ht
  obtain ⟨hcancelled, -⟩ := exec_halt_cancels
    (s := { s with inputs := rest, draws := d, resp := none }) hc harmed hpend t ht
  exact hcancelled

/-- Of the responses without data only one has status OK (R101). -/
theorem respWord_eq_ok {st : Status} (h : respWord st 0 = respWord .OK 0) : st = .OK := by
  revert h
  cases st <;> decide

/-- A response that is OK was given as such. -/
theorem ok_of_respond {st : Status} {s u : State} (h : respond st 0 s = .next u)
    (hresp : u.resp = some (respWord .OK 0)) : st = .OK := by
  cases h
  exact respWord_eq_ok (Option.some.inj hresp)

/-- A SUBMIT answers OK only where every check has passed and the transceiver has started (R121, R145). -/
theorem submit_ok_checks {c : ChanIx} {dir : Dir} {et : EpType} {su : Bool} {len : BitVec 19}
    {buf : BitVec 32} {s u : State} (h : exec (.submit c dir et su len buf) s = .next u)
    (hresp : u.resp = some (respWord .OK 0)) :
    ChannelReady c s ∧ subOk s.variant (s.chan c.toNat) dir et su len buf = true
      ∧ s.draws.hwOk = true := by
  have refute : ∀ {st : Status} {s' : State}, st ≠ .OK →
      exec (.submit c dir et su len buf) s ≠ respond st 0 s' := fun hst heq =>
    hst (ok_of_respond (heq.symm.trans h) hresp)
  have hchecked := exec_submit c s dir et su len buf
  have hc : c.toNat < s.nch := Nat.lt_of_not_le fun hc =>
    refute (by decide) (hchecked.trans (checked_range _ hc))
  have hconf := Bool.eq_true_of_not_eq_false fun hconf =>
    refute (by decide) (hchecked.trans (checked_notcfg _ hc hconf))
  have hready : ChannelReady c s := ⟨hc, hconf, Bool.eq_false_of_not_eq_true fun harmed =>
    refute (by decide) (hchecked.trans (checked_busy _ hc hconf harmed))⟩
  have hok : subOk s.variant (s.chan c.toNat) dir et su len buf = true :=
    by_contra fun hbad => refute (by decide) (exec_submit_param hready hbad)
  refine ⟨hready, hok, Bool.eq_true_of_not_eq_false fun hw => ?_⟩
  exact refute (by decide) ((exec_submit_ok hready hok).trans (if_pos hw))

/-- The ARM of a fresh split transfer: start-split phase, the whole length, the buffer's address (R34, R123). -/
theorem armOf_submittedRecord {i : Nat} {r : Channel} (hsplit : r.doSplit = true)
    (hcs : r.csplit = false) (dir : Dir) (et : EpType) (su : Bool) (len : BitVec 19)
    (buf : BitVec 32) (frame : BitVec 16) :
    ∃ p o, armOf i (submittedRecord dir et su len buf frame r)
      = .ARM i p .SS o len.toNat buf.toNat := by
  have hphase : phase (submittedRecord dir et su len buf frame r) = .SS := by
    simp [phase, submittedRecord, hsplit, hcs]
  rw [← armRecord_eq, armRecord, hphase]
  exact ⟨_, _, rfl⟩

/-- A SUBMIT that succeeds on a split channel outside the complete-split phase starts with a start-split (R123). -/
theorem submit_arms_startSplit {c : ChanIx} {dir : Dir} {et : EpType} {su : Bool}
    {len : BitVec 19} {buf : BitVec 32} {s u : State} (hsplit : (s.chan c.toNat).doSplit = true)
    (hcs : (s.chan c.toNat).csplit = false) (hdbuf : (s.chan c.toNat).dbufEn = false)
    (h : exec (.submit c dir et su len buf) s = .next u)
    (hresp : u.resp = some (respWord .OK 0)) :
    ∃ p o, u.out = s.out ++ [.ARM c.toNat p .SS o len.toNat buf.toNat] := by
  obtain ⟨⟨hc, hconf, hunarmed⟩, hok, hw⟩ := submit_ok_checks h hresp
  obtain ⟨hsu, -, hbuf⟩ := subOk_bounds hok
  obtain ⟨t, ht, -, -, -, -, hout⟩ := submitArmsTheTransfer c dir et su len buf s _ hc hconf
    hunarmed hdbuf hsu (subOk_aligned hok) hbuf hw rfl
  cases h.symm.trans ht
  obtain ⟨p, o, harm⟩ := armOf_submittedRecord (i := c.toNat) hsplit hcs dir et su len buf
    s.draws.frame
  exact ⟨p, o, harm ▸ hout⟩

/-- A step that answers a command ran it: a faulted block drops its word without a response (R262). -/
theorem step_ran_of_response {s u : State} {i : Instr} {d : Draws} {rest : List Stimulus}
    {w : Word} (hin : s.inputs = .word (encode i) d :: rest) (hwf : i.wellFormed = true)
    (h : step s = .next u) (hresp : u.resp = some w) :
    exec i { s with inputs := rest, draws := d, resp := none } = .next u := by
  cases hf : s.fault.valid with
  | false =>
    rw [← stepRunsTheDecodedInstruction s _ d rest i hin hf (decodeInvertsEncode i hwf), h]
  | true =>
    rw [step_cons hin, takeStimulus, takeWord_faulted (s := { s with inputs := rest }) _ _ hf] at h
    cases h
    cases hresp

/-- Settles O31: HALT cancels the transfer, the queue up to the SUBMIT keeps it so, and the SUBMIT finds no complete-split pending. -/
theorem haltRestartsASplitTransfer : Obligations.HaltRestartsASplitTransfer := by
  intro c dir et su len buf
  refine ⟨fun s t hc harmed hpend ht => ?_, fun s u _ hsplit hcs hdbuf hu hresp =>
    submit_arms_startSplit hsplit hcs hdbuf hu hresp,
    fun d d' between s t u hc hf harmed hpend hin hno hrun hsplit hdbuf hstep hresp => ?_⟩
  · obtain ⟨hcancelled, hss⟩ := exec_halt_cancels hc harmed hpend t ht
    exact ⟨hss, hcancelled.notComplete⟩
  · obtain ⟨s', hhalt, hrun'⟩ := run_succ hrun
    have hin' := step_inputs s s' hhalt
    rw [hin, List.cons_append, List.tail_cons] at hin'
    have hcancelled := step_halt_cancels hc harmed hpend hin hf s' hhalt
    obtain ⟨hcancelled', hlast⟩ := run_keeps_cancelled hcancelled hin'
      (fun x hx w e hxw => hno w e (hxw ▸ hx)) hrun'
    have hsubmit := step_ran_of_response hlast rfl hstep hresp
    exact submit_arms_startSplit (s := { t with inputs := [], draws := d', resp := none })
      hsplit hcancelled'.notComplete hdbuf hsubmit hresp

end Sys2Proof.Proofs
end

section
/-! SUPPORT. The double-buffer acknowledgement (R222 to R224): the packet it accepts, the record that counts it, the refill of its slot, and the completion of the transfer. -/

namespace Sys2Proof.Proofs

open Sys2Proof.Machine Sys2Proof.Laws

/-! ## What EV_DBUF_ACK accepts (R222) -/

/-- A channel that EV_DBUF_ACK speaks to: on the FS variant, double-buffered and armed (R222). -/
structure AckExpected (c : ChanIx) (s : State) : Prop where
  channel : c.toNat < s.nch
  variant : s.variant = .FS
  dbuf : (s.chan c.toNat).dbufEn = true
  armed : (s.chan c.toNat).armed = true

/-- An acknowledged packet that is counted: no halt is pending, and the packet is within the transfer and its slot (R222). -/
structure AckFits (c : ChanIx) (n : BitVec 19) (s : State) : Prop extends AckExpected c s where
  live : (s.chan c.toNat).haltPending = false
  length : (s.chan c.toNat).xferCount.toNat + n.toNat ≤ (s.chan c.toNat).xferLen.toNat
  slot : n.toNat ≤ (s.chan c.toNat).mps.toNat

/-- What EV_DBUF_ACK would fault for has not happened (R222). -/
theorem AckExpected.no_fault {c : ChanIx} {s : State} (h : AckExpected c s) :
    ¬ (isFs s.variant = false ∨ (s.chan c.toNat).dbufEn = false
      ∨ (s.chan c.toNat).armed = false) := by
  simp [h.variant, h.dbuf, h.armed, isFs]

/-- What EV_DBUF_ACK would call babble has not happened (R222). -/
theorem AckFits.no_overflow {c : ChanIx} {n : BitVec 19} {s : State} (h : AckFits c n s) :
    ¬ (remaining (s.chan c.toNat) < n.toNat ∨ (s.chan c.toNat).mps.toNat < n.toNat) := by
  have hlength := h.length
  have hslot := h.slot
  unfold remaining
  omega

/-- Settles O44: the pending halt is looked at before the packet is. -/
theorem dbufAckUnderAPendingHaltIsIgnored : Obligations.DbufAckUnderAPendingHaltIsIgnored := by
  intro c b n s hc hv hdbuf harmed hpend
  have h : AckExpected c s := ⟨hc, hv, hdbuf, harmed⟩
  rw [exec, execEvDbufAck, if_neg (Nat.not_le_of_lt hc), if_neg h.no_fault, if_pos hpend]

/-! ## The bookkeeping and the data of the packet (R222) -/

/-- The record that has counted an acknowledged packet of n bytes (R222). -/
def ackedRecord (n : BitVec 19) (c : Channel) : Channel :=
  { c with
    xferCount := BitVec.ofNat 19 (c.xferCount.toNat + n.toNat)
    errCnt := 0, nyetCnt := 0
    toggleIn := if c.dir = .IN ∧ c.epType ≠ .ISOC then !c.toggleIn else c.toggleIn
    toggleOut := if c.dir = .OUT ∧ c.epType ≠ .ISOC then !c.toggleOut else c.toggleOut }

/-- The count and the one toggle flip, in either direction. -/
theorem countPacket_eq_ackedRecord (n : BitVec 19) (c : Channel) :
    countPacket n c = ackedRecord n c := by
  have hcount : c.xferCount + n = BitVec.ofNat 19 (c.xferCount.toNat + n.toNat) := by
    simp [BitVec.ofNat_add]
  by_cases hep : c.epType = .ISOC
  · simp [countPacket, clearRetries, ackedRecord, hcount, hep]
  · cases hdir : c.dir with
    | IN => simp [countPacket, clearRetries, ackedRecord, setTgl, tgl, hcount, hep, hdir]
    | OUT => simp [countPacket, clearRetries, ackedRecord, setTgl, tgl, hcount, hep, hdir]

/-- What remains of the transfer after the packet. -/
theorem remaining_ackedRecord {n : BitVec 19} {c : Channel}
    (h : c.xferCount.toNat + n.toNat ≤ c.xferLen.toNat) :
    remaining (ackedRecord n c) = c.xferLen.toNat - (c.xferCount.toNat + n.toNat) := by
  rw [remaining, ackedRecord, ofNat_toNat_of_le h]

/-- The data of an OUT packet was moved when its slot was filled. -/
theorem drainSlot_out {i n : Nat} {b : Bool} {s : State} (hd : (s.chan i).dir = .OUT) :
    drainSlot i b n s = .ok s := by
  rw [drainSlot, hd]

/-- The data of an IN packet is copied from its slot to the next bytes of the transfer's buffer, and no other byte moves. -/
theorem drainSlot_in {i n : Nat} {b : Bool} {s : State} (hv : s.variant = .FS)
    (hd : (s.chan i).dir = .IN) (hsys : nextAddr (s.chan i) + n ≤ 2 ^ 32)
    (hpma : bufAddr (s.chan i) b + n ≤ 2 ^ 16) :
    ∃ s1, drainSlot i b n s = .ok s1 ∧ s1.out = s.out ∧ s1.resp = s.resp
      ∧ (∀ k, k < n →
        s1.byteAt .SYS (nextAddr (s.chan i) + k) = s.byteAt .PMA (bufAddr (s.chan i) b + k))
      ∧ SameMemoryOutside .SYS (nextAddr (s.chan i)) n s s1 := by
  have hsrc : inSpace s.variant .PMA (bufAddr (s.chan i) b) n = true :=
    hv ▸ (inSpace_PMA_FS_iff _ _).2 hpma
  have hdst : inSpace s.variant .SYS (nextAddr (s.chan i)) n = true :=
    (inSpace_SYS_iff _ _ _).2 hsys
  have hcopy : drainSlot i b n s =
      memCopy .SYS (nextAddr (s.chan i)) .PMA (bufAddr (s.chan i) b) n s := by
    rw [drainSlot, hd]
  refine ⟨_, hcopy.trans (memCopy_ok hsrc hdst), rfl, rfl, fun k hk => ?_, fun sp x hx => ?_⟩
  · rw [← bytesAt_getElem s .PMA _ n k (by simpa using hk)]
    exact byteAt_putMem_inside s .SYS _ k _ _
  · exact byteAt_putMem_outside s .SYS sp _ x _ (by simpa using hx)

/-- Both directions at once, where the buffer and the slot exist. -/
theorem drainSlot_moves {i n : Nat} {b : Bool} {s : State} (hv : s.variant = .FS)
    (hsys : nextAddr (s.chan i) + n ≤ 2 ^ 32) (hpma : bufAddr (s.chan i) b + n ≤ 2 ^ 16) :
    ∃ s1, drainSlot i b n s = .ok s1 ∧ s1.out = s.out ∧ s1.resp = s.resp
      ∧ ((s.chan i).dir = .OUT → SameMemory s s1)
      ∧ ((s.chan i).dir = .IN → SameMemoryOutside .SYS (nextAddr (s.chan i)) n s s1
        ∧ ∀ k, k < n →
          s1.byteAt .SYS (nextAddr (s.chan i) + k) = s.byteAt .PMA (bufAddr (s.chan i) b + k)) := by
  cases hd : (s.chan i).dir with
  | OUT => exact ⟨s, drainSlot_out hd, rfl, rfl, fun _ _ _ => rfl, Dir.noConfusion⟩
  | IN =>
    obtain ⟨s1, hdrain, hout, hresp, hbytes, hrest⟩ := drainSlot_in hv hd hsys hpma
    exact ⟨s1, hdrain, hout, hresp, Dir.noConfusion, fun _ => ⟨hrest, hbytes⟩⟩

/-- An accepted packet is moved, then counted; the rest depends on what remains. -/
theorem AckFits.exec_ok {c : ChanIx} {b : Bool} {n : BitVec 19} {s s1 : State} (h : AckFits c n s)
    (hdrain : drainSlot c.toNat b n.toNat s = .ok s1) :
    exec (.evDbufAck c b n) s =
      ackTail c.toNat b (s1.putChan c.toNat (ackedRecord n (s.chan c.toNat))) := by
  have hlive : ¬ (s.chan c.toNat).haltPending = true := by simp [h.live]
  rw [exec, execEvDbufAck, if_neg (Nat.not_le_of_lt h.channel), if_neg h.no_fault, if_neg hlive,
    if_neg h.no_overflow, hdrain]
  simp only [chan_of_drainSlot hdrain, countPacket_eq_ackedRecord]

/-- Moving a packet and writing its channel's record leaves that record, and everything outside the channel, the log and memory. -/
theorem drained_putChan {i n : Nat} {b : Bool} {s s1 : State} (r : Channel) (hi : i < s.nch)
    (hdrain : drainSlot i b n s = .ok s1) :
    ChannelFrame i s (s1.putChan i r) ∧ i < (s1.putChan i r).nch
      ∧ (s1.putChan i r).chan i = r := by
  have hframe : ChannelFrame i s (s1.putChan i r) :=
    channelEffect_frame ((drainSlot_effect hdrain).trans (channelEffect_putChan i s1 r))
  have hi2 : i < (s1.putChan i r).nch := hframe.nch.symm ▸ hi
  exact ⟨hframe, hi2, chan_putChan_self r (by simpa using hi2)⟩

/-! ## The last packet (R224) -/

/-- An accepted packet that leaves nothing of the transfer completes it. -/
theorem AckFits.exec_done {c : ChanIx} {b : Bool} {n : BitVec 19} {s s1 : State}
    (h : AckFits c n s) (hdrain : drainSlot c.toNat b n.toNat s = .ok s1)
    (hlast : (s.chan c.toNat).xferCount.toNat + n.toNat = (s.chan c.toNat).xferLen.toNat) :
    exec (.evDbufAck c b n) s =
      .next ((s1.putChan c.toNat (ackedRecord n (s.chan c.toNat))).apply c.toNat
        (dbufDone c.toNat (ChanStep.start (ackedRecord n (s.chan c.toNat))))) := by
  obtain ⟨-, -, hput⟩ := drained_putChan (ackedRecord n (s.chan c.toNat)) h.channel hdrain
  have hnone : ¬ remaining (ackedRecord n (s.chan c.toNat)) ≠ 0 := by
    rw [remaining_ackedRecord h.length, hlast, Nat.sub_self]
    exact not_not.2 rfl
  rw [h.exec_ok hdrain, ackTail, hput, if_neg hnone]

/-- Settles O41: the drain, the count, and `dbufDone`. -/
theorem dbufAckCompletesTheTransfer : Obligations.DbufAckCompletesTheTransfer := by
  intro c b n s c0 a p hc hv hc0 hdbuf harmed hlive hlast hslot ha hsys hp hpma
  subst hc0 ha hp
  have h : AckFits c n s := ⟨⟨hc, hv, hdbuf, harmed⟩, hlive, Nat.le_of_eq hlast, hslot⟩
  obtain ⟨s1, hdrain, hout, hresp, hmemOut, hmemIn⟩ := drainSlot_moves hv hsys hpma
  obtain ⟨hframe, hc', -⟩ := drained_putChan (ackedRecord n (s.chan c.toNat)) hc hdrain
  refine ⟨_, h.exec_done hdrain hlast,
    channelFrame_trans hframe (channelEffect_frame (channelEffect_apply c.toNat _ _)), hresp, ?_,
    ?_, fun hd sp x => ?_, fun hd => ?_⟩
  · rw [chan_apply_self _ hc']
    simp [dbufDone, ackedRecord, hlast]
  · simp [dbufDone, hout]
  · rw [apply_byteAt, putChan_byteAt, hmemOut hd sp x]
  · obtain ⟨hrest, hbytes⟩ := hmemIn hd
    refine ⟨fun sp x hx => ?_, fun k hk => ?_⟩
    · rw [apply_byteAt, putChan_byteAt, hrest sp x hx]
    · rw [apply_byteAt, putChan_byteAt]
      exact hbytes k hk

/-! ## The refill (R223) -/

/-- The record of a channel while its slot is refilled (R37). -/
def filling (r : Channel) : Channel := { r with fillBusy := true }

/-- The record that refilling slot `b` leaves (R223). -/
def refilledRecord (b : Bool) (r : Channel) : Channel :=
  { r with
    loaded := BitVec.ofNat 19 (r.loaded.toNat + nextPart r), swBuf := !b, fillBusy := false }

/-- Of a transfer that has been given whole there is no next part. -/
theorem nextPart_eq_zero {r : Channel} (h : ¬ r.loaded.toNat < r.xferLen.toNat) :
    nextPart r = 0 := by
  rw [nextPart, Nat.sub_eq_zero_of_le (Nat.le_of_not_lt h), Nat.min_zero]

/-- A refill completes for IN always, and for OUT where the buffer and the one slot exist. -/
theorem refill_completes_of_slot {i : Nat} {b : Bool} {s : State} {r : Channel} (hi : i < s.nch)
    (hr : s.chan i = r)
    (h : r.dir = .OUT → s.variant = .FS ∧ r.xferBuf.toNat + r.xferLen.toNat ≤ 2 ^ 32
      ∧ bufAddr r b + r.mps.toNat ≤ 2 ^ 16) :
    ∃ t, refill i b s = .ok t := by
  subst hr
  generalize hs0 : s.putChan i { s.chan i with fillBusy := true } = s0
  have hr0 : s0.chan i = filling (s.chan i) := hs0 ▸ chan_putChan_self _ hi
  simp only [refill, hs0]
  by_cases hleft : (s0.chan i).loaded.toNat < (s0.chan i).xferLen.toNat
  · obtain ⟨s1, hgive⟩ : ∃ s1, give i b (nextPart (s0.chan i)) s0 = .ok s1 := by
      refine give_completes fun hd => ?_
      rw [hr0] at hd hleft ⊢
      obtain ⟨hv, hbuf, hslot⟩ := h hd
      rw [← hs0, putChan_variant, hv, inSpace_SYS_iff, inSpace_PMA_FS_iff, nextPart]
      simp only [filling, bufAddr] at hleft hslot ⊢
      omega
    rw [if_pos hleft, hgive]
    exact ⟨_, rfl⟩
  · rw [if_neg hleft]
    exact ⟨_, rfl⟩

section Refill

variable {i : Nat} {b : Bool} {r : Channel} {s t : State} (hi : i < s.nch) (hr : s.chan i = r)
  (h : refill i b s = .ok t)
include hi hr h

/-- A refill gives the slot the next part of the transfer, if any is left to give, and then sets the slot bits. -/
theorem refill_gives :
    ∃ s1, t = s1.putChan i (refilledRecord b r)
      ∧ i < s1.nch
      ∧ ((r.loaded.toNat < r.xferLen.toNat
          ∧ give i b (nextPart r) (s.putChan i (filling r)) = .ok s1)
        ∨ (¬ r.loaded.toNat < r.xferLen.toNat ∧ s1 = s.putChan i (filling r))) := by
  subst hr
  obtain ⟨s0, s1, hs0, hgive, rfl⟩ := refill_spec h
  have hs0' : s0 = s.putChan i (filling (s.chan i)) := hs0
  subst hs0'
  have hi0 : i < (s.putChan i (filling (s.chan i))).nch := by simpa using hi
  rw [chan_putChan_self _ hi] at hgive
  rcases hgive with ⟨hleft, hgive⟩ | ⟨hall, rfl⟩
  · have hi1 : i < s1.nch := (channelEffect_frame (give_effect hgive)).nch.symm ▸ hi0
    refine ⟨s1, ?_, hi1, .inl ⟨hleft, hgive⟩⟩
    rw [give_chan hi0 hgive, chan_putChan_self _ hi]
    rfl
  · refine ⟨_, ?_, hi0, .inr ⟨hall, rfl⟩⟩
    have hnone : nextPart (s.chan i) = 0 := nextPart_eq_zero hall
    rw [chan_putChan_self _ hi, refilledRecord, hnone, Nat.add_zero, BitVec.ofNat_toNat,
      BitVec.setWidth_eq]
    rfl

theorem refill_chan : t.chan i = refilledRecord b r := by
  obtain ⟨s1, rfl, hi1, -⟩ := refill_gives hi hr h
  exact chan_putChan_self _ hi1

theorem refill_resp : t.resp = s.resp := by
  obtain ⟨s1, rfl, -, ⟨-, hgive⟩ | ⟨-, rfl⟩⟩ := refill_gives hi hr h
  · obtain ⟨-, -, -, -, -, -, hresp, -⟩ := give_frame hgive
    exact hresp
  · rfl

theorem refill_out :
    t.out = s.out
      ++ (if r.loaded.toNat < r.xferLen.toNat then [slotRecord i r.dir b (nextPart r)] else []) := by
  obtain ⟨s1, rfl, -, ⟨hleft, hgive⟩ | ⟨hall, rfl⟩⟩ := refill_gives hi hr h
  · rw [if_pos hleft, putChan_out, give_out hgive, chan_putChan_self _ hi]
    rfl
  · rw [if_neg hall, List.append_nil]
    rfl

/-- Granting an IN slot again moves no byte. -/
theorem refill_sameMemory (hd : r.dir = .IN) : SameMemory s t := by
  obtain ⟨s1, rfl, -, ⟨-, hgive⟩ | ⟨-, rfl⟩⟩ := refill_gives hi hr h
  · intro sp x
    have hsame := give_sameMemory (r := filling r) (chan_putChan_self _ hi) hd hgive sp x
    rw [putChan_byteAt, hsame, putChan_byteAt]
  · intro sp x
    rw [putChan_byteAt, putChan_byteAt]

/-- Refilling an OUT slot copies the next part of the buffer into it and moves no other byte. -/
theorem refill_fills (hd : r.dir = .OUT) :
    (∀ k, k < nextPart r → t.byteAt .PMA (bufAddr r b + k) =
        s.byteAt .SYS (r.xferBuf.toNat + r.loaded.toNat + k))
      ∧ SameMemoryOutside .PMA (bufAddr r b) (nextPart r) s t := by
  obtain ⟨s1, rfl, -, ⟨-, hgive⟩ | ⟨hall, rfl⟩⟩ := refill_gives hi hr h
  · obtain ⟨hfill, hrest⟩ := give_fills (r := filling r) (chan_putChan_self _ hi) hd hgive
    exact ⟨hfill, hrest⟩
  · rw [nextPart_eq_zero hall]
    exact ⟨fun k hk => absurd hk (Nat.not_lt_zero k), fun _ _ _ => rfl⟩

end Refill

/-! ## A packet with bytes remaining (R222, R223) -/

/-- An accepted packet that leaves part of the transfer refills its slot, after whatever its drain did. -/
theorem AckFits.exec_refill {c : ChanIx} {b : Bool} {n : BitVec 19} {s s1 t : State}
    (h : AckFits c n s) (hdrain : drainSlot c.toNat b n.toNat s = .ok s1)
    (hleft : (s.chan c.toNat).xferCount.toNat + n.toNat < (s.chan c.toNat).xferLen.toNat)
    (hrefill : refill c.toNat b (s1.putChan c.toNat (ackedRecord n (s.chan c.toNat))) = .ok t) :
    exec (.evDbufAck c b n) s = .next t ∧ ChannelFrame c.toNat s t ∧ t.resp = s1.resp
      ∧ t.chan c.toNat = refilledRecord b (ackedRecord n (s.chan c.toNat))
      ∧ t.out = s1.out ++
        (if (s.chan c.toNat).loaded.toNat < (s.chan c.toNat).xferLen.toNat then
          [slotRecord c.toNat (s.chan c.toNat).dir b (nextPart (s.chan c.toNat))] else []) := by
  obtain ⟨hframe, hc', hput⟩ :=
    drained_putChan (ackedRecord n (s.chan c.toNat)) h.channel hdrain
  have hresp := refill_resp hc' hput hrefill
  have hout := refill_out hc' hput hrefill
  have hsome : remaining (ackedRecord n (s.chan c.toNat)) ≠ 0 := by
    rw [remaining_ackedRecord h.length]
    exact Nat.sub_ne_zero_of_lt hleft
  refine ⟨?_, channelFrame_trans hframe (channelEffect_frame (refill_effect hrefill)),
    hresp, refill_chan hc' hput hrefill, hout⟩
  rw [h.exec_ok hdrain, ackTail, hput, if_pos hsome, hrefill]

/-- Settles O42: nothing to drain, and the one slot and the buffer exist, so the refill completes and fills it. -/
theorem dbufAckRefillsTheSlotForOut : Obligations.DbufAckRefillsTheSlotForOut := by
  intro c b n s c0 p m hc hv hc0 hdir hdbuf harmed hlive hleft hslot hbuf hp hpma hm
  subst hc0 hp hm
  have h : AckFits c n s := ⟨⟨hc, hv, hdbuf, harmed⟩, hlive, Nat.le_of_lt hleft, hslot⟩
  have hdrain : drainSlot c.toNat b n.toNat s = .ok s := drainSlot_out hdir
  obtain ⟨-, hc', hput⟩ := drained_putChan (ackedRecord n (s.chan c.toNat)) hc hdrain
  obtain ⟨t, hrefill⟩ := refill_completes_of_slot (b := b) hc' hput fun _ => ⟨hv, hbuf, hpma⟩
  obtain ⟨hexec, hframe, hresp, hchan, hout⟩ := h.exec_refill hdrain hleft hrefill
  obtain ⟨hfill, hrest⟩ := refill_fills hc' hput hrefill hdir
  refine ⟨t, hexec, hframe, hresp, ?_, ?_, fun k hk => ?_, fun sp x hx => ?_⟩
  · rw [hchan]
    simp [refilledRecord, ackedRecord, nextPart, hdir]
  · rw [hout, hdir]
    rfl
  · exact (hfill k hk).trans (putChan_byteAt ..)
  · exact (hrest sp x hx).trans (putChan_byteAt ..)

/-- Settles O43: the slot is drained, and granting it again moves no byte. -/
theorem dbufAckDrainsTheSlotForIn : Obligations.DbufAckDrainsTheSlotForIn := by
  intro c b n s c0 a p m hc hv hc0 hdir hdbuf harmed hlive hleft hslot ha hsys hp hpma hm
  subst hc0 ha hp hm
  have h : AckFits c n s := ⟨⟨hc, hv, hdbuf, harmed⟩, hlive, Nat.le_of_lt hleft, hslot⟩
  obtain ⟨s1, hdrain, hout1, hresp1, hbytes, hrest⟩ := drainSlot_in hv hdir hsys hpma
  obtain ⟨-, hc', hput⟩ := drained_putChan (ackedRecord n (s.chan c.toNat)) hc hdrain
  obtain ⟨t, hrefill⟩ := refill_completes_of_slot (b := b) hc' hput
    fun hd => Dir.noConfusion (hdir.symm.trans hd)
  obtain ⟨hexec, hframe, hresp, hchan, hout⟩ := h.exec_refill hdrain hleft hrefill
  have hsame : ∀ sp x, t.byteAt sp x = s1.byteAt sp x := fun sp x =>
    (refill_sameMemory hc' hput hrefill hdir sp x).trans (putChan_byteAt ..)
  refine ⟨t, hexec, hframe, hresp.trans hresp1, ?_, ?_, fun k hk => ?_, fun sp x hx => ?_⟩
  · rw [hchan]
    simp [refilledRecord, ackedRecord, nextPart, hdir]
  · rw [hout, hout1, hdir]
    rfl
  · exact (hsame _ _).trans (hbytes k hk)
  · exact (hsame sp x).trans (hrest sp x hx)

end Sys2Proof.Proofs
end

section
/-! SUPPORT. The whole pass of a DISPATCH (R240, R271), and the port events (R250 to R255). -/

namespace Sys2Proof.Proofs

open Sys2Proof.Machine Sys2Proof.Laws

/-! ## DISPATCH: the whole pass -/

/-- Settles O48: the laws of `demux` on the channel array, and a channel with no flag to take is left alone. -/
theorem dispatchServesEveryChannelInOrder : Obligations.DispatchServesEveryChannelInOrder := by
  intro s hm
  have hexec := execDispatch_host hm
  have hchan := fun i (hi : i < s.nch) => (execDispatch_chan hi _ hexec).trans (if_pos hm)
  refine ⟨_, hexec, rfl, demux_length s.variant 0 s.ch, hchan, fun i hi hnone => ?_, ?_⟩
  · rw [hchan i hi, dispatchChan_idle ((firstFlag_none_iff _).2 hnone), start_ch]
  · simp only [demux_out, Nat.zero_add, State.nch, State.chan]

/-- A pass that finds no unmasked pending flag leaves every record as it is and emits nothing (R240). -/
theorem demux_idle (v : Variant) (i : Nat) {cs : List Channel} (h : ∀ c ∈ cs, unmasked c = 0) :
    demux v i cs = (cs, []) := by
  induction cs generalizing i with
  | nil => rfl
  | cons c cs ih =>
    obtain ⟨hc, hcs⟩ := List.forall_mem_cons.1 h
    rw [demux, ih (i + 1) hcs, dispatchChan_idle ((firstFlag_none_iff c).2 hc)]
    rfl

/-- In host mode the interrupt line is low only where no channel has an unmasked pending flag (R46). -/
theorem unmasked_eq_zero_of_irq {s : State} (hm : s.hostMode = true) (h : irq s = false) :
    ∀ c ∈ s.ch, unmasked c = 0 := by
  simpa [irq, hm] using h

/-- Settles O47: in device mode there is no pass, in host mode the pass finds nothing to take. -/
theorem dispatchWithoutIrqChangesNothing : Obligations.DispatchWithoutIrqChangesNothing := by
  intro s hirq
  cases hm : s.hostMode with
  | false => exact execDispatch_device hm
  | true =>
    calc exec .dispatch s = _ := execDispatch_host hm
      _ = .next s := by rw [demux_idle _ _ (unmasked_eq_zero_of_irq hm hirq), List.append_nil]

/-! ## The port events (R250 to R255) -/

/-- EV_PORT whose codes name an event and a speed is that event in host mode and nothing in device mode (R250). -/
theorem exec_evPort {pev : BitVec 3} {sp : BitVec 2} {e : PortEvent} {spd : Speed} (s : State)
    (he : portEventOfCode pev = some e) (hsp : speedOfCode sp = some spd) :
    exec (.evPort pev sp) s = if s.hostMode then .next (portEvent e spd s) else .next s := by
  rw [exec, execEvPort, he, hsp]

/-- The codes of SPEED (R84). -/
theorem speedOfCode_of_mem {sp : BitVec 2} {spd : Speed}
    (h : (sp, spd) ∈ [((0 : BitVec 2), Speed.HS), (1, .FS), (2, .LS)]) :
    speedOfCode sp = some spd := by
  simp only [List.mem_cons, Prod.mk.injEq, List.not_mem_nil, or_false] at h
  rcases h with ⟨rfl, rfl⟩ | ⟨rfl, rfl⟩ | ⟨rfl, rfl⟩ <;> rfl

/-- A disabled port is disconnected if it was and connected otherwise (R254). -/
theorem portDisable_eq (s : State) :
    portDisable s = { s with
      port := {
        conn := if s.port.conn = PortConn.DISCONNECTED then .DISCONNECTED else .CONNECTED
        speed := s.port.speed, ovrcur := s.port.ovrcur }
      out := s.out ++ [.PORTCB .DISABLED] } := by
  by_cases h : s.port.conn = PortConn.DISCONNECTED <;> simp [portDisable, State.emit, h]

/-- Settles O45: the codes name the event and the speed, and each event is its rule. -/
theorem portEventsFollowTheirRules : Obligations.PortEventsFollowTheirRules := by
  intro sp spd s hmem
  have hspd := speedOfCode_of_mem hmem
  refine ⟨fun hm pev hpev => ?_, fun hm => ?_⟩
  · obtain ⟨e, he⟩ := portEventOfCode_of_legal pev (decide_eq_true hpev)
    rw [exec_evPort s he hspd, hm]
    rfl
  · have hexec : ∀ {pev e}, portEventOfCode pev = some e →
        exec (.evPort pev sp) s = .next (portEvent e spd s) := fun he => by
      rw [exec_evPort s he hspd, if_pos hm]
    exact ⟨hexec (e := .CONNECT) rfl, hexec (e := .DISCONNECT) rfl, hexec (e := .ENABLE) rfl,
      (hexec (e := .DISABLE) rfl).trans (congrArg _ (portDisable_eq s)),
      hexec (e := .OVERCURRENT) rfl⟩

end Sys2Proof.Proofs
end

section
/-! SUPPORT. Words that arrive while the fault register is set (R262). -/

namespace Sys2Proof.Proofs

open Sys2Proof.Machine

/-- A run whose first step answers a next state goes on from that state. -/
theorem run_of_step {n : Nat} {s s' : State} (h : step s = .next s') :
    Host.Core.run Sys2Proof.core (n + 1) s = Host.Core.run Sys2Proof.core n s' := by
  have hcore : Sys2Proof.core.step s = .next s' := h
  simp only [Host.Core.run, hcore]

/-- A step of a faulted block whose next input is a word takes the word off the queue and returns no response; nothing else changes (R262). -/
theorem step_faulted_word {s : State} {w : Word} {d : Draws} {rest : List Stimulus}
    (hin : s.inputs = .word w d :: rest) (hf : s.fault.valid = true) :
    step s = .next { s with inputs := rest, resp := none } :=
  calc step s = takeWord w d { s with inputs := rest } := step_cons hin
    _ = _ := takeWord_faulted w d hf

/-- Once the last response is gone, each word that a faulted block takes leaves it as it was, but for a shorter queue (R262). -/
theorem run_faulted_words {s : State} (hf : s.fault.valid = true) (words : List (Word × Draws)) :
    Host.Core.run Sys2Proof.core words.length
        { s with inputs := words.map (fun p => Stimulus.word p.1 p.2), resp := none }
      = .next { s with inputs := [], resp := none } := by
  induction words with
  | nil => rfl
  | cons p words ih => exact Eq.trans (run_of_step (step_faulted_word rfl hf)) ih

/-- Settles O7: the first word clears the last response, and the words behind it find none to clear. -/
theorem faultedBlockDropsEveryWord : Obligations.FaultedBlockDropsEveryWord := by
  intro words s hne hf hin
  cases words with
  | nil => exact absurd rfl hne
  | cons p words =>
    exact (run_of_step (step_faulted_word hin hf)).trans (run_faulted_words hf words)

end Sys2Proof.Proofs
end

section
/-! SUPPORT. The block with no input waiting (R290). -/

namespace Sys2Proof.Proofs

open Sys2Proof.Machine

/-- Settles O11: the empty queue is the first branch of the step. -/
theorem blockWaitsWithoutInput : Obligations.BlockWaitsWithoutInput :=
  fun _ hin => step_nil hin

end Sys2Proof.Proofs
end

section
/-! SUPPORT. Memory over a whole step: its canonical form, which every store of bytes that exist keeps (R60, R61), and what a reset leaves of it (R290). -/

namespace Sys2Proof.Proofs

open Sys2Proof.Machine Sys2Proof.Laws

/-- The canonical form speaks of the memories alone. -/
theorem memoryForm_congr {s t : State} (h : MemoryForm s) (hsys : t.sys = s.sys)
    (hpma : t.pma = s.pma) : MemoryForm t :=
  ⟨hsys ▸ h.1, hpma ▸ h.2⟩

/-- Bytes stored inside their space keep the canonical form, whichever the space (R61). -/
theorem memoryForm_store {s : State} (h : MemoryForm s) {sp : Space} {a : Nat} {bs : List Byte}
    (hin : inSpace s.variant sp a bs.length = true) :
    MemoryForm (s.putMem sp (memStore a bs (s.mem sp))) := by
  obtain ⟨hsys, hpma⟩ := h
  cases sp with
  | SYS => exact ⟨wf_memStore bs (inSpace_length hin) hsys, hpma⟩
  | PMA => exact ⟨hsys, wf_memStore bs (inSpace_length hin) hpma⟩

/-- MemWrite stores only bytes that exist. -/
theorem memWrite_keeps_memoryForm {s t : State} {sp : Space} {a : Nat} {bs : List Byte}
    (ht : memWrite sp a bs s = .ok t) (h : MemoryForm s) : MemoryForm t := by
  obtain ⟨hin, rfl⟩ := memWrite_spec ht
  exact memoryForm_store h hin

theorem channelWrite_keeps_memoryForm {c : Nat} {s t : State} (hw : ChannelWrite c s t)
    (h : MemoryForm s) : MemoryForm t := by
  cases hw with
  | putChan => exact memoryForm_congr h rfl rfl
  | emit => exact memoryForm_congr h rfl rfl
  | store sp a bs hin => exact memoryForm_store h hin
  | respond => exact memoryForm_congr h rfl rfl

/-- Every instruction keeps the canonical form: only a word for one channel stores bytes. -/
theorem instrEffect_keeps_memoryForm {i : Instr} {s t : State} (he : InstrEffect i s t)
    (h : MemoryForm s) : MemoryForm t := by
  cases he with
  | nothing => exact h
  | channel _ hc =>
    induction hc with
    | refl => exact h
    | tail _ hw ih => exact channelWrite_keeps_memoryForm hw ih
  | fault => exact memoryForm_congr h rfl rfl
  | port => exact memoryForm_congr h rfl rfl
  | dispatch => exact memoryForm_congr h rfl rfl

/-- Settles O15, by the inversion of `step` and of `exec`: memory changes only by stores of bytes that exist. -/
theorem stepKeepsTheMemoryForm : Obligations.StepKeepsTheMemoryForm := by
  intro s t h hstep
  cases step_effect s t hstep with
  | wait => exact h
  | drop => exact memoryForm_congr h rfl rfl
  | illegal => exact memoryForm_congr h rfl rfl
  | run _ _ ht =>
    exact instrEffect_keeps_memoryForm (exec_effect _ _ t ht) (memoryForm_congr h rfl rfl)
  | hostMode => exact memoryForm_congr h rfl rfl
  | memWrite _ ht => exact memWrite_keeps_memoryForm ht (memoryForm_congr h rfl rfl)
  | reset => exact memoryForm_congr h rfl rfl

/-- A reset writes neither memory (R60, R290). -/
@[simp] theorem hwReset_mem (s : State) (sp : Space) : (hwReset s).mem sp = s.mem sp := by
  cases sp with
  | SYS => exact hwReset_sys s
  | PMA => exact hwReset_pma s

theorem sameMemory_hwReset (s : State) : SameMemory s (hwReset s) :=
  fun sp a => byteAt_eq_of_mem (hwReset_mem s sp) a

/-- Settles O10: the step takes the reset from the queue, and of what is left `hwReset` writes no parameter, no mode and no memory. -/
theorem resetLeavesTheEnvironmentAlone : Obligations.ResetLeavesTheEnvironmentAlone := by
  intro s rest hin
  exact ⟨hwReset { s with inputs := rest }, step_cons hin, hwReset_nch _, hwReset_variant _,
    hwReset_hostMode _, sameMemory_hwReset _, hwReset_inputs _⟩

end Sys2Proof.Proofs
end
